-- ==== Sys2Proof/Word.lean ====
section
/-! DEFINITION. The word types of the block: command words, samples, and the modular distance of rule R11. -/

namespace Sys2Proof

/-- A 64-bit command word (30_encoding.md R100). -/
abbrev CommandWord := BitVec 64

/-- A 32-bit sample word, the binary32 bit pattern of R134 (20_memory.md R70). -/
abbrev Sample := BitVec 32

/-- `(a - b) mod c`, the non-negative remainder of 00_scope.md R11. -/
def modSub (a b c : Nat) : Nat := (((a : Int) - (b : Int)) % (c : Int)).toNat

end Sys2Proof
end

