-- ==== Sys2Proof/Syntax.lean ====
section
/-! DEFINITION. The fifteen commands of DCA-CMD version 1 and the three command ports (30_encoding.md). -/

namespace Sys2Proof

/-- The three command ports of 30_encoding.md R107. -/
inductive Port where
  /-- Port P, the producer. -/
  | producer
  /-- Port C, the consumer. -/
  | consumer
  /-- Port H, the host. -/
  | host
  deriving DecidableEq, Repr, Inhabited

/-- One constructor per row of the opcode map (30_encoding.md R103). The operands are the fields R102
assembles; a field that must be zero is no operand. Every term of the type has an encoding. -/
inductive Instr where
  /-- CYCLE (R130): one emulated cycle; `t` is the toggle flag `FLG[0]`. -/
  | cycle (t : Bool)
  /-- PUSH (R162): store the sample word `w`. -/
  | push (w : Sample)
  /-- POP_BLOCK (R165): take up to `n` samples. -/
  | popBlock (n : BitVec 32)
  /-- OCCUPANCY (R168). -/
  | occupancy
  /-- PUMP (R220). -/
  | pump
  /-- READ_REG (R262): read the register numbered `r`. -/
  | readReg (r : BitVec 32)
  /-- INITIALIZE (R251). -/
  | initializeBlock
  /-- BEGIN_PLAY (R252). -/
  | beginPlay
  /-- STOP_PLAY (R253). -/
  | stopPlay
  /-- ENABLE (R254). -/
  | enable
  /-- DISABLE (R255). -/
  | disable
  /-- IS_PLAYING (R256). -/
  | isPlaying
  /-- EXPORT (R259). -/
  | exportRecord
  /-- IMPORT (R260): `ev`, `en`, `cv` are `FLG[0]`, `FLG[1]`, `FLG[2]`; `cps` is the raw `IMM`. -/
  | importRecord (ev en cv : Bool) (cps : BitVec 32)
  /-- DESTROY (R257). -/
  | destroy
  deriving DecidableEq, Repr

/-- A command as issued: the port and the instruction. -/
structure Command where
  port : Port
  instr : Instr
  deriving DecidableEq, Repr

end Sys2Proof
end

