-- ==== Sys2Proof/Config.lean ====
section
/-! DEFINITION. The configuration record of 00_scope.md R7, the records the spec names, and the free values. -/

namespace Sys2Proof

/-- What RateAdapter compares (42_rate_adapter.md R201). -/
inductive RateSource where
  | ring
  | sink
  deriving DecidableEq, Repr

/-- The configuration record of 00_scope.md R7, constant from power-on (70_reset_and_hazards.md R330).
`SINK_FLUSH_DEPTH` and `SAMPLE_RATE`, which R8 does not bound, have the width of the registers that
show them (log 3, DEDUCED). -/
structure Config where
  /-- `FRAC_BITS` -/
  fracBits : Nat
  /-- `RB_CAPACITY`, `C` -/
  capacity : Nat
  /-- `SINK_BLOCK`, `B` -/
  block : Nat
  /-- `DROP_HWM` -/
  dropHwm : Nat
  /-- `PUSH_THRESHOLD` -/
  pushThreshold : Nat
  /-- `SINK_FLUSH_DEPTH` -/
  sinkFlushDepth : BitVec 64
  /-- `SAMPLE_RATE` -/
  sampleRate : BitVec 64
  /-- `CPS_NOMINAL` -/
  cpsNominal : Nat
  /-- `CPS_MIN` -/
  cpsMin : Nat
  /-- `CPS_MAX` -/
  cpsMax : Nat
  /-- `CPS_STEP` -/
  cpsStep : Nat
  /-- `RATE_LWM` -/
  rateLwm : Nat
  /-- `RATE_HWM` -/
  rateHwm : Nat
  /-- `RATE_SOURCE` -/
  rateSource : RateSource
  /-- `ENABLED_DEFAULT` -/
  enabledDefault : Bool
  deriving DecidableEq, Repr

/-- `UNIT = 2^FRAC_BITS` (00_scope.md R7). -/
def Config.unit (c : Config) : Nat := 2 ^ c.fracBits

/-- The reference configuration REF of 00_scope.md R9, used by the spec's test vectors. -/
def Config.ref : Config where
  fracBits := 0
  capacity := 16
  block := 4
  dropHwm := 8
  pushThreshold := 4
  sinkFlushDepth := 8
  sampleRate := 44100
  cpsNominal := 10
  cpsMin := 5
  cpsMax := 20
  cpsStep := 1
  rateLwm := 2
  rateHwm := 6
  rateSource := .ring
  enabledDefault := true

/-- The configuration of `State.reset`: every default of 00_scope.md R7, and for the six OPEN
parameters, which have none, the values of the spec's configuration DRIFT, its one record with the
default `FRAC_BITS` (95_test_vectors.md section 0). DESIGN CHOICE for those six, unsafe (log 1). -/
def Config.powerOn : Config where
  fracBits := 16
  capacity := 262144
  block := 1024
  dropHwm := 2048
  pushThreshold := 1024
  sinkFlushDepth := 2048
  sampleRate := 44100
  cpsNominal := 340025
  cpsMin := 131072
  cpsMax := 1310720
  cpsStep := 64
  rateLwm := 2
  rateHwm := 6
  rateSource := .ring
  enabledDefault := true

/-- Free value: the contents of `Store[i]` before anything writes it (10_state.md R36, log 4). -/
opaque Config.unwrittenStore : Nat → Sample

/-- Free value: the contents of `Pend[i]` before anything writes it (10_state.md R36, log 4). -/
opaque Config.unwrittenPend : Nat → Sample

/-- Free value: the port of the `n`-th turn that no listed schedule gives (00_scope.md R13, log 9). -/
opaque Config.freePort : Nat → Port

/-- Free value: what the sink answers to `Open` in the `n`-th free draw (43_output_pump.md R230, log 11). -/
opaque Config.freeOpen : Nat → Bool

/-- Free value: how many samples the sink would accept in the `n`-th free draw (R230, log 11). -/
opaque Config.freeAccept : Nat → Nat

/-- Free value: the queue depth the sink answers in the `n`-th free draw (R230, log 11). -/
opaque Config.freeDepth : Nat → BitVec 32

end Sys2Proof
end

