-- ==== Sys2Proof/WellFormed.lean ====
section
/-! DEFINITION. What a term must meet: the legal configurations of R8 and the ports of R103 and R106.
Every `Instr` has an encoding, so nothing is asked of an instruction by itself. -/

namespace Sys2Proof

/-- `FRAC_BITS` is in range (00_scope.md R8). -/
abbrev Config.FracBitsLegal (c : Config) : Prop := c.fracBits ≤ 16

/-- `1 <= B <= DROP_HWM <= C - 2` and `C <= 2^32` (00_scope.md R8). -/
abbrev Config.RingLegal (c : Config) : Prop :=
  1 ≤ c.block ∧ c.block ≤ c.dropHwm ∧ c.dropHwm + 2 ≤ c.capacity ∧ c.capacity ≤ 2 ^ 32

/-- `1 <= PUSH_THRESHOLD <= DROP_HWM` (00_scope.md R8). -/
abbrev Config.ThresholdLegal (c : Config) : Prop :=
  1 ≤ c.pushThreshold ∧ c.pushThreshold ≤ c.dropHwm

/-- `UNIT + 1 <= CPS_MIN <= CPS_NOMINAL <= CPS_MAX <= 2^32 - 1` (00_scope.md R8). -/
abbrev Config.CpsLegal (c : Config) : Prop :=
  c.unit + 1 ≤ c.cpsMin ∧ c.cpsMin ≤ c.cpsNominal ∧ c.cpsNominal ≤ c.cpsMax ∧ c.cpsMax ≤ 2 ^ 32 - 1

/-- `1 <= CPS_STEP <= CPS_MIN - UNIT` (00_scope.md R8). -/
abbrev Config.StepLegal (c : Config) : Prop :=
  1 ≤ c.cpsStep ∧ c.cpsStep + c.unit ≤ c.cpsMin

/-- `RATE_LWM < RATE_HWM < DROP_HWM` (00_scope.md R8). -/
abbrev Config.MarksLegal (c : Config) : Prop :=
  c.rateLwm < c.rateHwm ∧ c.rateHwm < c.dropHwm

/-- A configuration is legal only if all of these hold (00_scope.md R8). -/
abbrev Config.Legal (c : Config) : Prop :=
  c.FracBitsLegal ∧ c.RingLegal ∧ c.ThresholdLegal ∧ c.CpsLegal ∧ c.StepLegal ∧ c.MarksLegal

/-- The ports that may issue an instruction: the "Ports" column of 30_encoding.md R103. -/
def Instr.ports : Instr → List Port
  | .cycle _ => [.producer]
  | .push _ => [.producer]
  | .popBlock _ => [.consumer]
  | .occupancy => [.producer, .consumer, .host]
  | .pump => [.consumer]
  | .readReg _ => [.host]
  | .initializeBlock => [.host]
  | .beginPlay => [.host]
  | .stopPlay => [.host]
  | .enable => [.host]
  | .disable => [.host]
  | .isPlaying => [.host]
  | .exportRecord => [.host]
  | .importRecord _ _ _ _ => [.host]
  | .destroy => [.host]

/-- A command is well formed when its port may issue its instruction (30_encoding.md R106). -/
abbrev Command.WellFormed (k : Command) : Prop := k.port ∈ k.instr.ports

end Sys2Proof
end

