-- ==== Sys2Proof/Machine/State.lean ====
section
/-! DEFINITION. State: every piece of state 10_state.md gives the block, and the model's own fields for
the commands, the schedule and the sink that 10_state.md R40 leaves outside it. Plain data throughout. -/

namespace Sys2Proof.Machine

/-- The lifecycle state `LIFE` (10_state.md R32). -/
inductive Life where
  | uninit
  | stopped
  | playing
  | destroyed
  deriving DecidableEq, Repr

/-- The status codes of 60_exceptions.md R301. Codes 5 to 15 are never produced, so they have no constructor. -/
inductive Status where
  /-- The command did what its rule says. -/
  | ok
  /-- The word is illegal on its port, or the READ_REG number is unassigned. -/
  | illegal
  /-- The lifecycle state makes the command a no-op, or a DESTROY landed while it was in flight. -/
  | inert
  /-- `sink.Open` answered `fail`. -/
  | sinkOpenFail
  /-- `sink.Enqueue` accepted fewer samples than offered. -/
  | sinkPartial
  deriving DecidableEq, Repr

/-- The response that ends every command (30_encoding.md R108). -/
structure Response where
  status : Status
  count : BitVec 32
  data : BitVec 64
  samples : List Sample
  deriving DecidableEq, Repr

/-- The sample format passed to `Open` (43_output_pump.md R230). -/
inductive SampleFormat where
  | binary32
  deriving DecidableEq, Repr

/-- One interaction with the external sink, with its arguments and its answer (43_output_pump.md R230). -/
inductive SinkCall where
  /-- `Open(sampleRate, channelCount, sampleFormat)` and whether it succeeded. -/
  | openSink (sampleRate : BitVec 64) (channels : Nat) (format : SampleFormat) (ok : Bool)
  /-- `Enqueue(samples, count)` and the accepted count; the sink took that prefix. -/
  | enqueue (samples : List Sample) (accepted : Nat)
  /-- `QueuedDepth()` and its answer. -/
  | queuedDepth (depth : BitVec 32)
  /-- `Flush()`. -/
  | flush
  /-- `Close()`. -/
  | close
  deriving DecidableEq, Repr

/-- The next action of a PUMP in flight (43_output_pump.md R220, "Phases"). -/
inductive PumpPoint where
  /-- The claim of its POP_BLOCK. -/
  | claim
  /-- The copies and the commit of its POP_BLOCK. -/
  | popping
  /-- The `Enqueue` that re-offers the pending tail (R224). -/
  | offerPending
  /-- The `Enqueue` of a new block (R225). -/
  | offerBlock (blk : List Sample)
  /-- `QueuedDepth` (R226). -/
  | queuedDepth
  /-- `Flush` (R226), after `QueuedDepth` answered `q`. -/
  | flush (q : BitVec 32)
  /-- Step 4 (R227), after `QueuedDepth` answered `q`. -/
  | adjust (q : BitVec 32)
  deriving DecidableEq, Repr

/-- The locals of a PUMP in flight: `fwd`, `occ`, `acc`, `st == SINK_PARTIAL`, `fl` of the pseudocode of R220. -/
structure PumpFlight where
  fwd : Bool
  occ : BitVec 32
  acc : BitVec 32
  tail : Bool
  fl : Bool
  point : PumpPoint
  deriving DecidableEq, Repr

/-- The command in flight on port C (60_exceptions.md R307, log 6). Its word stays first in the port's
queue until its response. Commands on the other ports are one action each (R352). -/
inductive Flight where
  /-- No command is in flight. -/
  | idle
  /-- A POP_BLOCK past its claim; the `CT_` fields hold its progress. -/
  | pop
  /-- A PUMP past its step 0+1. -/
  | pump (l : PumpFlight)
  deriving DecidableEq, Repr

/-- The written cells of a storage array, by index, in canonical form: indices strictly rising. A cell
that is not listed has not been written (log 4). -/
abbrev Memory := List (Nat × Sample)

structure State where
  /-- The configuration record, constant from power-on (70 R330); registers 0x10 to 0x1E show it. -/
  cfg : Config
  /-- `LIFE` (10 R32). -/
  life : Life
  /-- `ENABLED` (10 R32). -/
  enabled : Bool
  /-- `HIGH` (10 R32). -/
  high : Bool
  /-- `CPS` (10 R33). -/
  cps : BitVec 32
  /-- `ELAPSED` (10 R33). -/
  elapsed : BitVec 64
  /-- `HIGHACC` (10 R33). -/
  highacc : BitVec 64
  /-- `WPTR` (10 R33). -/
  wptr : BitVec 32
  /-- `RPTR` (10 R33). -/
  rptr : BitVec 32
  /-- `DROPS` (10 R33). -/
  drops : BitVec 32
  /-- `PEND_LEN` (10 R33). -/
  pendLen : BitVec 32
  /-- `Store[0..C-1]` (10 R36). -/
  store : Memory
  /-- `Pend[0..B-1]` (10 R36). -/
  pend : Memory
  /-- `CT_ACTIVE` (10 R38). -/
  ctActive : Bool
  /-- `CT_R0` (10 R38). -/
  ctR0 : BitVec 32
  /-- `CT_K` (10 R38). -/
  ctK : BitVec 32
  /-- `CT_OUT`, the samples copied so far (10 R38). -/
  ctOut : List Sample
  /-- The port C command in flight (60 R307). -/
  flight : Flight
  /-- MODEL: the port whose action the current step performs (log 9). -/
  port : Port
  /-- MODEL: the command words waiting on port P, in arrival order (log 8). -/
  inP : List CommandWord
  /-- MODEL: the command words waiting on port C (log 8). -/
  inC : List CommandWord
  /-- MODEL: the command words waiting on port H (log 8). -/
  inH : List CommandWord
  /-- MODEL: the responses given on port P, oldest first (log 8). -/
  outP : List Response
  /-- MODEL: the responses given on port C (log 8). -/
  outC : List Response
  /-- MODEL: the responses given on port H (log 8). -/
  outH : List Response
  /-- MODEL: the ports whose turns come next (log 9). -/
  schedule : List Port
  /-- MODEL: how many turns the free schedule has given (log 9). -/
  turns : Nat
  /-- MODEL: the sink's next answers to `Open` (log 11). -/
  sinkOpens : List Bool
  /-- MODEL: how many samples the sink would accept at its next `Enqueue`s (log 11). -/
  sinkAccepts : List Nat
  /-- MODEL: the sink's next answers to `QueuedDepth` (log 11). -/
  sinkDepths : List (BitVec 32)
  /-- MODEL: how many free draws have been made (log 11). -/
  draws : Nat
  /-- MODEL: the calls made to the sink, oldest first (log 12). -/
  sinkCalls : List SinkCall
  deriving DecidableEq, Repr

/-- The block never faults: every command has a response (60_exceptions.md R300, R313). -/
inductive Fault where
  deriving DecidableEq, Repr

/-- Why a step has no meaning. -/
inductive Refusal where
  /-- Raised by `exec` for an instruction without a meaning; there is none. Safe: nothing is claimed of it. -/
  | notModelled (mnemonic : String)
  /-- Raised by `step` when the configuration breaks 00_scope.md R8 (60_exceptions.md R313). Safe: the
  spec has a model refuse exactly these. -/
  | illegalConfiguration
  deriving DecidableEq, Repr

/-- What a step or a meaning answers. -/
abbrev Outcome := Host.Outcome State Fault Refusal

/-- The state right after power-on with configuration `c` (70_reset_and_hazards.md R330). -/
def State.powerOn (c : Config) : State where
  cfg := c
  life := .uninit
  enabled := c.enabledDefault
  high := false
  cps := BitVec.ofNat 32 c.cpsNominal
  elapsed := 0
  highacc := 0
  wptr := 0
  rptr := 0
  drops := 0
  pendLen := 0
  store := []
  pend := []
  ctActive := false
  ctR0 := 0
  ctK := 0
  ctOut := []
  flight := .idle
  port := .producer
  inP := []
  inC := []
  inH := []
  outP := []
  outC := []
  outH := []
  schedule := []
  turns := 0
  sinkOpens := []
  sinkAccepts := []
  sinkDepths := []
  draws := 0
  sinkCalls := []

/-- The machine right after reset: power-on with `Config.powerOn` (log 1). -/
def State.reset : State := State.powerOn Config.powerOn

end Sys2Proof.Machine
end

