-- ==== Sys2Proof/Machine/Flags.lean ====
section
/-! DEFINITION. The flags and the packed views of them: STATUS, the configuration record, PUMP's data
word, the gate, and the status codes. -/

namespace Sys2Proof.Machine

/-- The 2-bit value of `LIFE` (10_state.md R32). -/
def Life.code : Life → BitVec 2
  | .uninit => 0
  | .stopped => 1
  | .playing => 2
  | .destroyed => 3

/-- The 4-bit status code (60_exceptions.md R301). -/
def Status.code : Status → BitVec 4
  | .ok => 0
  | .illegal => 1
  | .inert => 2
  | .sinkOpenFail => 3
  | .sinkPartial => 4

/-- A flag as a word: 1 or 0. -/
def flagWord (w : Nat) (b : Bool) : BitVec w := (BitVec.ofBool b).setWidth w

/-- `HIGH` after the toggle of CYCLE: inverted exactly when `T = 1` (40_sample_clock.md R131). -/
def toggled (t high : Bool) : Bool := if t then !high else high

/-- The gate: `LIFE = PLAYING` and `ENABLED = 1` (43_output_pump.md R221). -/
def State.gate (s : State) : Bool := s.life = .playing && s.enabled

/-- `STATUS`: LIFE at bits 1:0, ENABLED at bit 2, HIGH at bit 3, the rest 0 (10_state.md R34). -/
def State.statusWord (s : State) : BitVec 64 :=
  0#60 ++ BitVec.ofBool s.high ++ BitVec.ofBool s.enabled ++ s.life.code

/-- The configuration record: `cps` at bits 31:0, `enabled` at bit 32, the rest 0
(44_playback_control.md R258). -/
def State.record (s : State) : BitVec 64 := 0#31 ++ BitVec.ofBool s.enabled ++ s.cps

/-- PUMP's data word: `occ` at bits 31:0, `fwd` at bit 32, `fl` at bit 33, the rest 0
(43_output_pump.md R228). -/
def PumpFlight.dataWord (l : PumpFlight) : BitVec 64 :=
  0#30 ++ BitVec.ofBool l.fl ++ BitVec.ofBool l.fwd ++ l.occ

end Sys2Proof.Machine
end

