-- ==== Sys2Proof/Decode.lean ====
section
/-! DEFINITION. The decoder of 30_encoding.md, total on every 64-bit word, and the encoder. -/

namespace Sys2Proof

/-- Why a word is illegal on a port. All three lead to the ILLEGAL response (30_encoding.md R109). -/
inductive Illegal where
  /-- The opcode is not in R103 (R105). -/
  | undefinedOpcode
  /-- `RSV`, a `FLG` bit the command does not name, or an unused `IMM` is not zero (R104). -/
  | fieldNotZero
  /-- R103 does not list the port for the command (R106). -/
  | wrongPort
  deriving DecidableEq, Repr

/-- `OPC`, bits 63:56 (30_encoding.md R100). -/
def opcField (w : CommandWord) : BitVec 8 := w.extractLsb' 56 8

/-- `RSV`, bits 55:36 (R100). -/
def rsvField (w : CommandWord) : BitVec 20 := w.extractLsb' 36 20

/-- `FLG`, bits 35:32 (R100). -/
def flgField (w : CommandWord) : BitVec 4 := w.extractLsb' 32 4

/-- `IMM`, bits 31:0 (R100). -/
def immField (w : CommandWord) : BitVec 32 := w.extractLsb' 0 32

/-- The four fields as one word (R100). -/
def packWord (opc : BitVec 8) (rsv : BitVec 20) (flg : BitVec 4) (imm : BitVec 32) : CommandWord :=
  opc ++ rsv ++ flg ++ imm

/-- An instruction that uses neither `FLG` nor `IMM`: both must be zero (R104). -/
def plainOperands (flg : BitVec 4) (imm : BitVec 32) (i : Instr) : Except Illegal Instr :=
  if flg = 0 ∧ imm = 0 then .ok i else .error .fieldNotZero

/-- An instruction that uses `IMM` and not `FLG` (R104). -/
def immOperand (flg : BitVec 4) (i : Instr) : Except Illegal Instr :=
  if flg = 0 then .ok i else .error .fieldNotZero

/-- The operands of a defined opcode, with the strict checks of R104 on `FLG` and `IMM`. -/
def decodeFields (opc : BitVec 8) (flg : BitVec 4) (imm : BitVec 32) : Except Illegal Instr :=
  match opc with
  | 0x01#8 => if flg.extractLsb' 1 3 = 0 ∧ imm = 0 then .ok (.cycle (flg.getLsbD 0)) else .error .fieldNotZero
  | 0x02#8 => immOperand flg (.push imm)
  | 0x03#8 => immOperand flg (.popBlock imm)
  | 0x04#8 => plainOperands flg imm .occupancy
  | 0x05#8 => plainOperands flg imm .pump
  | 0x06#8 => immOperand flg (.readReg imm)
  | 0x10#8 => plainOperands flg imm .initializeBlock
  | 0x11#8 => plainOperands flg imm .beginPlay
  | 0x12#8 => plainOperands flg imm .stopPlay
  | 0x13#8 => plainOperands flg imm .enable
  | 0x14#8 => plainOperands flg imm .disable
  | 0x15#8 => plainOperands flg imm .isPlaying
  | 0x16#8 => plainOperands flg imm .exportRecord
  | 0x17#8 =>
    if flg.getLsbD 3 = false then .ok (.importRecord (flg.getLsbD 0) (flg.getLsbD 1) (flg.getLsbD 2) imm)
    else .error .fieldNotZero
  | 0x18#8 => plainOperands flg imm .destroy
  | _ => .error .undefinedOpcode

/-- The opcodes R103 defines. -/
def definedOpcodes : List (BitVec 8) :=
  [0x01, 0x02, 0x03, 0x04, 0x05, 0x06, 0x10, 0x11, 0x12, 0x13, 0x14, 0x15, 0x16, 0x17, 0x18]

/-- Decode a word whatever its port: `OPC` first, then the fields of R104 (R101, R109). -/
def decodeWord (w : CommandWord) : Except Illegal Instr :=
  if opcField w ∈ definedOpcodes then
    if rsvField w = 0 then decodeFields (opcField w) (flgField w) (immField w) else .error .fieldNotZero
  else .error .undefinedOpcode

/-- `decode(port, word)` of 30_encoding.md R109. -/
def decode (p : Port) (w : CommandWord) : Except Illegal Instr :=
  match decodeWord w with
  | .error e => .error e
  | .ok i => if p ∈ i.ports then .ok i else .error .wrongPort

/-- The instruction the decoder reads from the table's word `w` of `nbits` bits; one 64-bit word is
the whole of every command (R101). -/
def decodeTableWord (nbits w : Nat) : Option Instr :=
  match decodeWord (BitVec.ofNat 64 (w % 2 ^ nbits)) with
  | .ok i => some i
  | .error _ => none

/-- The opcode of an instruction (R103). -/
def Instr.opcode : Instr → BitVec 8
  | .cycle _ => 0x01
  | .push _ => 0x02
  | .popBlock _ => 0x03
  | .occupancy => 0x04
  | .pump => 0x05
  | .readReg _ => 0x06
  | .initializeBlock => 0x10
  | .beginPlay => 0x11
  | .stopPlay => 0x12
  | .enable => 0x13
  | .disable => 0x14
  | .isPlaying => 0x15
  | .exportRecord => 0x16
  | .importRecord _ _ _ _ => 0x17
  | .destroy => 0x18

/-- The `FLG` field of an instruction: CYCLE uses `[0] = T`, IMPORT `[0] = EV`, `[1] = EN`,
`[2] = CV` (R102). -/
def Instr.flg : Instr → BitVec 4
  | .cycle t => 0#3 ++ BitVec.ofBool t
  | .importRecord ev en cv _ => 0#1 ++ BitVec.ofBool cv ++ BitVec.ofBool en ++ BitVec.ofBool ev
  | _ => 0

/-- The `IMM` field of an instruction (R102). -/
def Instr.imm : Instr → BitVec 32
  | .push w => w
  | .popBlock n => n
  | .readReg r => r
  | .importRecord _ _ _ cps => cps
  | _ => 0

/-- The command word of an instruction (R100, R103). -/
def encode (i : Instr) : CommandWord := packWord i.opcode 0 i.flg i.imm

/-- One row of the tables of R103: match, mask and the ports that may issue the command. -/
structure TableRow where
  mnemonic : String
  pattern : BitVec 64
  mask : BitVec 64
  ports : List Port
  deriving DecidableEq, Repr

/-- A word selects a row exactly when `(word & mask) == match` (R103). -/
abbrev TableRow.Selects (r : TableRow) (w : CommandWord) : Prop := w &&& r.mask = r.pattern

/-- The rows of R103, copied from its two tables. -/
def opcodeTable : List TableRow :=
  [⟨"CYCLE", 0x0100000000000000, 0xFFFFFFFEFFFFFFFF, [.producer]⟩,
   ⟨"PUSH", 0x0200000000000000, 0xFFFFFFFF00000000, [.producer]⟩,
   ⟨"POP_BLOCK", 0x0300000000000000, 0xFFFFFFFF00000000, [.consumer]⟩,
   ⟨"OCCUPANCY", 0x0400000000000000, 0xFFFFFFFFFFFFFFFF, [.producer, .consumer, .host]⟩,
   ⟨"PUMP", 0x0500000000000000, 0xFFFFFFFFFFFFFFFF, [.consumer]⟩,
   ⟨"READ_REG", 0x0600000000000000, 0xFFFFFFFF00000000, [.host]⟩,
   ⟨"INITIALIZE", 0x1000000000000000, 0xFFFFFFFFFFFFFFFF, [.host]⟩,
   ⟨"BEGIN_PLAY", 0x1100000000000000, 0xFFFFFFFFFFFFFFFF, [.host]⟩,
   ⟨"STOP_PLAY", 0x1200000000000000, 0xFFFFFFFFFFFFFFFF, [.host]⟩,
   ⟨"ENABLE", 0x1300000000000000, 0xFFFFFFFFFFFFFFFF, [.host]⟩,
   ⟨"DISABLE", 0x1400000000000000, 0xFFFFFFFFFFFFFFFF, [.host]⟩,
   ⟨"IS_PLAYING", 0x1500000000000000, 0xFFFFFFFFFFFFFFFF, [.host]⟩,
   ⟨"EXPORT", 0x1600000000000000, 0xFFFFFFFFFFFFFFFF, [.host]⟩,
   ⟨"IMPORT", 0x1700000000000000, 0xFFFFFFF800000000, [.host]⟩,
   ⟨"DESTROY", 0x1800000000000000, 0xFFFFFFFFFFFFFFFF, [.host]⟩]

/-- The mnemonic of an instruction (R103). -/
def Instr.mnemonic : Instr → String
  | .cycle _ => "CYCLE"
  | .push _ => "PUSH"
  | .popBlock _ => "POP_BLOCK"
  | .occupancy => "OCCUPANCY"
  | .pump => "PUMP"
  | .readReg _ => "READ_REG"
  | .initializeBlock => "INITIALIZE"
  | .beginPlay => "BEGIN_PLAY"
  | .stopPlay => "STOP_PLAY"
  | .enable => "ENABLE"
  | .disable => "DISABLE"
  | .isPlaying => "IS_PLAYING"
  | .exportRecord => "EXPORT"
  | .importRecord _ _ _ _ => "IMPORT"
  | .destroy => "DESTROY"

end Sys2Proof
end

