-- ==== Sys2Proof/Machine/Ops.lean ====
section
/-! DEFINITION. The named operations over the state: the storage arrays, the ring, the pop transaction,
the response, the turn, and the interactions with the sink. -/

namespace Sys2Proof.Machine

/-! ### Storage arrays (10_state.md R36, 20_memory.md R72) -/

/-- The sample written at index `a`, if any. -/
def Memory.find : Memory → Nat → Option Sample
  | [], _ => none
  | (b, x) :: m, a => if a = b then some x else Memory.find m a

/-- Write one cell, keeping the indices strictly rising. -/
def Memory.write : Memory → Nat → Sample → Memory
  | [], a, x => [(a, x)]
  | (b, y) :: m, a, x =>
    if a < b then (a, x) :: (b, y) :: m
    else if a = b then (a, x) :: m
    else (b, y) :: Memory.write m a x

/-- Write consecutive cells from index `a` on. -/
def Memory.writeList : Memory → Nat → List Sample → Memory
  | m, _, [] => m
  | m, a, x :: xs => Memory.writeList (m.write a x) (a + 1) xs

/-- The canonical form: indices strictly rising (so each at most once). -/
abbrev Memory.wf (m : Memory) : Prop := m.Pairwise (fun x y => x.1 < y.1)

/-- `Store[i]`: a cell nothing has written reads as a free value (log 4). -/
def State.readStore (s : State) (i : Nat) : Sample := (s.store.find i).getD (Config.unwrittenStore i)

/-- `Pend[i]`: a cell nothing has written reads as a free value (log 4). -/
def State.readPend (s : State) (i : Nat) : Sample := (s.pend.find i).getD (Config.unwrittenPend i)

/-- `Pend[0..PEND_LEN-1]`, the pending tail in order (10_state.md R36). -/
def State.pending (s : State) : List Sample := (List.range s.pendLen.toNat).map s.readPend

/-- `Pend[i] <- tail[i]` for each `i`, and `PEND_LEN <-` the tail's length: the update after an
`Enqueue` (43_output_pump.md R220). The other cells keep what they held. -/
def State.setPending (tail : List Sample) (s : State) : State :=
  { s with
    pend := s.pend.writeList 0 tail
    pendLen := BitVec.ofNat 32 tail.length }

/-! ### Ports and responses (30_encoding.md R107, R108) -/

/-- The command words waiting on a port. -/
def State.inbox (s : State) : Port → List CommandWord
  | .producer => s.inP
  | .consumer => s.inC
  | .host => s.inH

/-- The responses given on a port. -/
def State.outbox (s : State) : Port → List Response
  | .producer => s.outP
  | .consumer => s.outC
  | .host => s.outH

/-- `respond S(count, data, samples)`: end the command on the port that issued it. Its word leaves that
port's queue and its one response goes out there (00_scope.md R12, 30_encoding.md R108). -/
def State.respond (st : Status) (count : BitVec 32) (data : BitVec 64) (samples : List Sample)
    (s : State) : State :=
  { s with
    inP := if s.port = .producer then s.inP.tail else s.inP
    inC := if s.port = .consumer then s.inC.tail else s.inC
    inH := if s.port = .host then s.inH.tail else s.inH
    outP := if s.port = .producer then s.outP ++ [⟨st, count, data, samples⟩] else s.outP
    outC := if s.port = .consumer then s.outC ++ [⟨st, count, data, samples⟩] else s.outC
    outH := if s.port = .host then s.outH ++ [⟨st, count, data, samples⟩] else s.outH }

/-- `respond OK`. -/
def State.respondOk (count : BitVec 32) (data : BitVec 64) (s : State) : State :=
  s.respond .ok count data []

/-- `respond INERT` with every other field 0. -/
def State.respondInert (s : State) : State := s.respond .inert 0 0 []

/-- `respond ILLEGAL`: no state of the block changes (30_encoding.md R104). -/
def State.respondIllegal (s : State) : State := s.respond .illegal 0 0 []

/-! ### Turns (00_scope.md R13, log 9, log 10) -/

/-- Take the next turn of the schedule, or a free one when none is listed. -/
def State.takeTurn (s : State) : State :=
  match s.schedule with
  | p :: rest => { s with port := p, schedule := rest }
  | [] => { s with port := Config.freePort s.turns, turns := s.turns + 1 }

/-- The port a word is put on when only the word is given: the first port R103 lists for its
instruction, and the host port for an illegal word. -/
def homePort (w : CommandWord) : Port :=
  match decodeWord w with
  | .ok i => i.ports.headD .host
  | .error _ => .host

/-- Put a word first in a port's queue, with nothing in flight before it. -/
def State.arriveFirst (w : CommandWord) (q : Port) (s : State) : State :=
  { s with
    inP := if q = .producer then w :: s.inP else s.inP
    inC := if q = .consumer then w :: s.inC else s.inC
    inH := if q = .host then w :: s.inH else s.inH
    flight := if q = .consumer then .idle else s.flight
    schedule := q :: s.schedule }

/-! ### The lifecycle (44_playback_control.md R250) -/

/-- The states in which the data path is inert: UNINIT and DESTROYED. -/
def Life.inert : Life → Bool
  | .uninit => true
  | .stopped => false
  | .playing => false
  | .destroyed => true

/-! ### The ring (20_memory.md R73, 41_ring_buffer.md R160) -/

/-- `occupancy() = (WPTR - RPTR) mod C` (20_memory.md R73). -/
def State.occupancy (s : State) : Nat := modSub s.wptr.toNat s.rptr.toNat s.cfg.capacity

/-- `d`, the number of samples the next push drops (41_ring_buffer.md R160). -/
def State.dropsOnPush (s : State) : Nat :=
  if s.cfg.dropHwm < modSub (s.wptr.toNat + 1) s.rptr.toNat s.cfg.capacity then
    modSub (s.wptr.toNat + 1) s.rptr.toNat s.cfg.capacity - s.cfg.dropHwm
  else 0

/-- `push(s)` of 41_ring_buffer.md R160: store at `WPTR`, drop the oldest excess, advance `WPTR`. -/
def State.pushSample (x : Sample) (s : State) : State :=
  { s with
    store := s.store.write s.wptr.toNat x
    rptr :=
      if s.dropsOnPush = 0 then s.rptr
      else BitVec.ofNat 32 ((s.rptr.toNat + s.dropsOnPush) % s.cfg.capacity)
    drops := s.drops + BitVec.ofNat 32 s.dropsOnPush
    wptr := BitVec.ofNat 32 ((s.wptr.toNat + 1) % s.cfg.capacity) }

/-! ### The pop transaction (41_ring_buffer.md R164, R165; 10_state.md R38) -/

/-- The claim: snapshot `RPTR` and decide how many samples to take. -/
def State.popClaim (n : Nat) (s : State) : State :=
  { s with
    ctActive := true
    ctR0 := s.rptr
    ctK := BitVec.ofNat 32 (min n s.occupancy)
    ctOut := [] }

/-- One copy: `CT_OUT[i] <- Store[(r0 + i) mod C]` for the next `i`. -/
def State.popCopy (s : State) : State :=
  { s with ctOut := s.ctOut ++ [s.readStore ((s.ctR0.toNat + s.ctOut.length) % s.cfg.capacity)] }

/-- `d` of the commit: how far the producer's drops moved `RPTR` since the claim. -/
def State.dropsSinceClaim (s : State) : Nat := modSub s.rptr.toNat s.ctR0.toNat s.cfg.capacity

/-- The commit: `RPTR <- (r0 + max(k, d)) mod C` (R166). -/
def State.popCommit (s : State) : State :=
  { s with
    ctActive := false
    rptr := BitVec.ofNat 32 ((s.ctR0.toNat + max s.ctK.toNat s.dropsSinceClaim) % s.cfg.capacity) }

/-- The commit that finds DESTROYED: `RPTR` stays. -/
def State.popAbandon (s : State) : State := { s with ctActive := false }

/-! ### The sink (43_output_pump.md R230, log 11, log 12) -/

/-- Record one call to the sink. -/
def State.callSink (k : SinkCall) (s : State) : State := { s with sinkCalls := s.sinkCalls ++ [k] }

/-- The sink's answer to the next `Open`: the listed one, or a free value. -/
def State.nextOpen (s : State) : Bool :=
  match s.sinkOpens with
  | ok :: _ => ok
  | [] => Config.freeOpen s.draws

/-- How many of `count` samples the sink takes at the next `Enqueue`: a value in `[0, count]`, the
listed one or a free one. -/
def State.nextAccept (count : Nat) (s : State) : Nat :=
  match s.sinkAccepts with
  | a :: _ => min a count
  | [] => min (Config.freeAccept s.draws) count

/-- The sink's answer to the next `QueuedDepth`: the listed one, or a free value. -/
def State.nextDepth (s : State) : BitVec 32 :=
  match s.sinkDepths with
  | q :: _ => q
  | [] => Config.freeDepth s.draws

/-- `sink.Open(SAMPLE_RATE, 1, binary32)`: one interaction; its answer is `nextOpen`. -/
def State.sinkOpen (s : State) : State :=
  { s with
    sinkOpens := s.sinkOpens.tail
    draws := if s.sinkOpens.isEmpty then s.draws + 1 else s.draws
    sinkCalls := s.sinkCalls ++ [.openSink s.cfg.sampleRate 1 .binary32 s.nextOpen] }

/-- `sink.Enqueue(xs, count)`: one interaction; the accepted count is `nextAccept`. -/
def State.sinkEnqueue (xs : List Sample) (s : State) : State :=
  { s with
    sinkAccepts := s.sinkAccepts.tail
    draws := if s.sinkAccepts.isEmpty then s.draws + 1 else s.draws
    sinkCalls := s.sinkCalls ++ [.enqueue xs (s.nextAccept xs.length)] }

/-- `sink.QueuedDepth()`: one interaction; its answer is `nextDepth`. -/
def State.sinkQueuedDepth (s : State) : State :=
  { s with
    sinkDepths := s.sinkDepths.tail
    draws := if s.sinkDepths.isEmpty then s.draws + 1 else s.draws
    sinkCalls := s.sinkCalls ++ [.queuedDepth s.nextDepth] }

/-- The bytes of one sample in the order in which it is handed to the sink as bytes: least-significant
byte first (20_memory.md R70, log 17). -/
def sampleBytes (x : Sample) : List (BitVec 8) :=
  [x.extractLsb' 0 8, x.extractLsb' 8 8, x.extractLsb' 16 8, x.extractLsb' 24 8]

/-- The samples a call hands to the sink and the sink takes, as words. -/
def SinkCall.taken : SinkCall → List Sample
  | .openSink _ _ _ _ => []
  | .enqueue xs a => xs.take a
  | .queuedDepth _ => []
  | .flush => []
  | .close => []

/-- The bytes of the samples the sink takes in a call (20_memory.md R70). -/
def SinkCall.takenBytes (k : SinkCall) : List (BitVec 8) := k.taken.flatMap sampleBytes

end Sys2Proof.Machine
end

