-- ==== Sys2Proof/Machine/RateAdapter.lean ====
section
/-! DEFINITION. RateAdapter: the RATE_ADJUST action of PUMP's step 4 (42_rate_adapter.md). -/

namespace Sys2Proof.Machine

/-- `clamp(x) = min(max(x, CPS_MIN), CPS_MAX)` on mathematical integers (42_rate_adapter.md R202). -/
def clampCps (c : Config) (x : Int) : BitVec 32 :=
  BitVec.ofInt 32 (min (max x (c.cpsMin : Int)) (c.cpsMax : Int))

/-- RATE_ADJUST(v) (R200): one step towards the dead band, clamped; strict comparisons. -/
def State.rateAdjust (v : Nat) (s : State) : State :=
  if v < s.cfg.rateLwm then { s with cps := clampCps s.cfg ((s.cps.toNat : Int) - (s.cfg.cpsStep : Int)) }
  else if s.cfg.rateHwm < v then
    { s with cps := clampCps s.cfg ((s.cps.toNat : Int) + (s.cfg.cpsStep : Int)) }
  else s

/-- The reading RATE_ADJUST compares: PUMP's `occ`, or the sink's `q` (R201). -/
def rateReading (c : Config) (occ q : BitVec 32) : Nat :=
  match c.rateSource with
  | .ring => occ.toNat
  | .sink => q.toNat

end Sys2Proof.Machine
end

