-- ==== Sys2Proof/Machine/OutputPump.lean ====
section
/-! DEFINITION. OutputPump: the meaning of PUMP, one action at a time (43_output_pump.md R220). -/

namespace Sys2Proof.Machine

/-- End a PUMP early: `INERT(count = acc)` (R229). -/
def State.pumpInert (l : PumpFlight) (s : State) : State :=
  { s with flight := .idle }.respond .inert l.acc 0 []

/-- Where step 2 begins: the gate is `fwd`, the ring held `occ` samples at step 1, `pendLen` are pending
(R223, R224, R225). -/
def pumpStep2 (c : Config) (fwd : Bool) (occ pendLen : Nat) : PumpPoint :=
  if fwd ∧ 0 < pendLen then .offerPending
  else if c.pushThreshold < occ then .claim
  else .queuedDepth

/-- Step 0 and step 1, one action: the lifecycle check, the gate (R221), the occupancy (R222), and with
the gate closed the emptying of the pending buffer (R223). -/
def State.pumpStart (s : State) : State :=
  if s.life.inert then s.respondInert
  else
    { s with
      pendLen := if s.gate then s.pendLen else 0
      flight := .pump
        { fwd := s.gate
          occ := BitVec.ofNat 32 s.occupancy
          acc := 0
          tail := false
          fl := false
          point := pumpStep2 s.cfg s.gate s.occupancy s.pendLen.toNat } }

/-- The claim of PUMP's POP_BLOCK(B) (41_ring_buffer.md R165). -/
def State.pumpClaim (l : PumpFlight) (s : State) : State :=
  if s.life.inert then s.pumpInert l
  else { s.popClaim s.cfg.block with flight := .pump { l with point := .popping } }

/-- The next copy of PUMP's POP_BLOCK, or its commit; the popped block is offered when the gate was
open and discarded when it was closed (R223, R225). -/
def State.pumpPop (l : PumpFlight) (s : State) : State :=
  if s.ctOut.length < s.ctK.toNat then s.popCopy
  else if s.life = .destroyed then s.popAbandon.pumpInert l
  else
    { s.popCommit with
      flight := .pump { l with point := if l.fwd then .offerBlock s.ctOut else .queuedDepth } }

/-- One `Enqueue` of `xs` and the pending-buffer update that follows it: the sink takes a prefix, the
rest is pending (R224, R225). -/
def State.pumpOffer (l : PumpFlight) (xs : List Sample) (s : State) : State :=
  if s.life = .destroyed then s.pumpInert l
  else
    { (s.sinkEnqueue xs).setPending (xs.drop (s.nextAccept xs.length)) with
      flight := .pump
        { l with
          acc := BitVec.ofNat 32 (s.nextAccept xs.length)
          tail := s.nextAccept xs.length < xs.length
          point := .queuedDepth } }

/-- `QueuedDepth`: flush next when the depth is above `SINK_FLUSH_DEPTH` (R226). -/
def State.pumpDepth (l : PumpFlight) (s : State) : State :=
  if s.life = .destroyed then s.pumpInert l
  else
    { s.sinkQueuedDepth with
      flight := .pump
        { l with
          point :=
            if s.cfg.sinkFlushDepth.toNat < s.nextDepth.toNat then .flush s.nextDepth
            else .adjust s.nextDepth } }

/-- `Flush` (R226). -/
def State.pumpFlush (l : PumpFlight) (q : BitVec 32) (s : State) : State :=
  if s.life = .destroyed then s.pumpInert l
  else { s.callSink .flush with flight := .pump { l with fl := true, point := .adjust q } }

/-- Step 4 and the response (R227, R228). -/
def State.pumpAdjust (l : PumpFlight) (q : BitVec 32) (s : State) : State :=
  if s.life = .destroyed then s.pumpInert l
  else
    { s.rateAdjust (rateReading s.cfg l.occ q) with flight := .idle }.respond
      (if l.tail then .sinkPartial else .ok) l.acc l.dataWord []

/-- The next action of a PUMP past its step 0+1. -/
def State.pumpNext (l : PumpFlight) (s : State) : State :=
  match l.point with
  | .claim => s.pumpClaim l
  | .popping => s.pumpPop l
  | .offerPending => s.pumpOffer l s.pending
  | .offerBlock blk => s.pumpOffer l blk
  | .queuedDepth => s.pumpDepth l
  | .flush q => s.pumpFlush l q
  | .adjust q => s.pumpAdjust l q

/-- PUMP (R220): its next action, which is step 0+1 when it is not in flight. -/
def execPump (s : State) : Outcome :=
  .next <|
    match s.flight with
    | .pump l => s.pumpNext l
    | _ => s.pumpStart

end Sys2Proof.Machine
end

