-- ==== Sys2Proof/Machine/Operands.lean ====
section
/-! DEFINITION. The operand forms of 30_encoding.md R102: IMM as a count, as a register number, as a
raw cycles-per-sample value; and the registers READ_REG can name (10_state.md R33). -/

namespace Sys2Proof.Machine

/-- The registers of 10_state.md R33 and R34. -/
inductive RegName where
  | status
  | cps
  | elapsed
  | highacc
  | wptr
  | rptr
  | drops
  | pendLen
  | pFracBits
  | pCapacity
  | pBlock
  | pDropHwm
  | pPushThreshold
  | pSinkFlushDepth
  | pCpsNominal
  | pCpsMin
  | pCpsMax
  | pCpsStep
  | pRateLwm
  | pRateHwm
  | pRateSource
  | pSampleRate
  | pEnabledDefault
  deriving DecidableEq, Repr

/-- The READ_REG number of a register (10_state.md R33). -/
def RegName.number : RegName → BitVec 32
  | .status => 0x00
  | .cps => 0x01
  | .elapsed => 0x02
  | .highacc => 0x03
  | .wptr => 0x04
  | .rptr => 0x05
  | .drops => 0x06
  | .pendLen => 0x07
  | .pFracBits => 0x10
  | .pCapacity => 0x11
  | .pBlock => 0x12
  | .pDropHwm => 0x13
  | .pPushThreshold => 0x14
  | .pSinkFlushDepth => 0x15
  | .pCpsNominal => 0x16
  | .pCpsMin => 0x17
  | .pCpsMax => 0x18
  | .pCpsStep => 0x19
  | .pRateLwm => 0x1A
  | .pRateHwm => 0x1B
  | .pRateSource => 0x1C
  | .pSampleRate => 0x1D
  | .pEnabledDefault => 0x1E

/-- The register a number names; every other number is unassigned (10_state.md R33). -/
def regOfNumber (r : BitVec 32) : Option RegName :=
  match r with
  | 0x00#32 => some .status
  | 0x01#32 => some .cps
  | 0x02#32 => some .elapsed
  | 0x03#32 => some .highacc
  | 0x04#32 => some .wptr
  | 0x05#32 => some .rptr
  | 0x06#32 => some .drops
  | 0x07#32 => some .pendLen
  | 0x10#32 => some .pFracBits
  | 0x11#32 => some .pCapacity
  | 0x12#32 => some .pBlock
  | 0x13#32 => some .pDropHwm
  | 0x14#32 => some .pPushThreshold
  | 0x15#32 => some .pSinkFlushDepth
  | 0x16#32 => some .pCpsNominal
  | 0x17#32 => some .pCpsMin
  | 0x18#32 => some .pCpsMax
  | 0x19#32 => some .pCpsStep
  | 0x1A#32 => some .pRateLwm
  | 0x1B#32 => some .pRateHwm
  | 0x1C#32 => some .pRateSource
  | 0x1D#32 => some .pSampleRate
  | 0x1E#32 => some .pEnabledDefault
  | _ => none

/-- `P_RATE_SOURCE`: 0 for RING, 1 for SINK (10_state.md R33). -/
def rateSourceWord : RateSource → BitVec 64
  | .ring => 0
  | .sink => 1

/-- What READ_REG gives for a register: its value, zero-extended to 64 bits (10_state.md R33, R34). -/
def State.readRegister (s : State) : RegName → BitVec 64
  | .status => s.statusWord
  | .cps => s.cps.setWidth 64
  | .elapsed => s.elapsed
  | .highacc => s.highacc
  | .wptr => s.wptr.setWidth 64
  | .rptr => s.rptr.setWidth 64
  | .drops => s.drops.setWidth 64
  | .pendLen => s.pendLen.setWidth 64
  | .pFracBits => BitVec.ofNat 64 s.cfg.fracBits
  | .pCapacity => BitVec.ofNat 64 s.cfg.capacity
  | .pBlock => BitVec.ofNat 64 s.cfg.block
  | .pDropHwm => BitVec.ofNat 64 s.cfg.dropHwm
  | .pPushThreshold => BitVec.ofNat 64 s.cfg.pushThreshold
  | .pSinkFlushDepth => s.cfg.sinkFlushDepth
  | .pCpsNominal => BitVec.ofNat 64 s.cfg.cpsNominal
  | .pCpsMin => BitVec.ofNat 64 s.cfg.cpsMin
  | .pCpsMax => BitVec.ofNat 64 s.cfg.cpsMax
  | .pCpsStep => BitVec.ofNat 64 s.cfg.cpsStep
  | .pRateLwm => BitVec.ofNat 64 s.cfg.rateLwm
  | .pRateHwm => BitVec.ofNat 64 s.cfg.rateHwm
  | .pRateSource => rateSourceWord s.cfg.rateSource
  | .pSampleRate => s.cfg.sampleRate
  | .pEnabledDefault => flagWord 64 s.cfg.enabledDefault

/-- `n = zext(IMM)`, the count of POP_BLOCK (30_encoding.md R102). -/
def countOperand (imm : BitVec 32) : Nat := imm.toNat

/-- `ENABLED` as IMPORT loads it: the field when present, else its default (44_playback_control.md R260). -/
def importedEnabled (c : Config) (ev en : Bool) : Bool := if ev then en else c.enabledDefault

end Sys2Proof.Machine
end

