-- ==== Sys2Proof/Machine/Playback.lean ====
section
/-! DEFINITION. PlaybackController: the lifecycle, configuration and diagnostic commands of port H, each
one atomic action (44_playback_control.md). -/

namespace Sys2Proof.Machine

/-- Every register of 10_state.md R33 but the parameters at its power-on value, and `LIFE` STOPPED
(44_playback_control.md R251, 70_reset_and_hazards.md R331). `Store`, `Pend` and the `CT_` fields keep
what they hold (log 18). -/
def State.setDefaults (s : State) : State :=
  { s with
    high := false
    elapsed := 0
    highacc := 0
    wptr := 0
    rptr := 0
    drops := 0
    pendLen := 0
    cps := BitVec.ofNat 32 s.cfg.cpsNominal
    enabled := s.cfg.enabledDefault
    life := .stopped }

/-- INITIALIZE (R251). -/
def execInitialize (s : State) : Outcome :=
  .next <|
    if s.life = .uninit then
      if s.nextOpen then s.sinkOpen.setDefaults.respondOk 0 0
      else s.sinkOpen.respond .sinkOpenFail 0 0 []
    else s.respondInert

/-- BEGIN_PLAY (R252). -/
def execBeginPlay (s : State) : Outcome :=
  .next <| if s.life.inert then s.respondInert else { s with life := .playing }.respondOk 0 0

/-- STOP_PLAY (R253). -/
def execStopPlay (s : State) : Outcome :=
  .next <| if s.life.inert then s.respondInert else { s with life := .stopped }.respondOk 0 0

/-- ENABLE (R254). -/
def execEnable (s : State) : Outcome :=
  .next <|
    if s.life = .destroyed then s.respondInert else { s with enabled := true }.respondOk 0 0

/-- DISABLE (R255). -/
def execDisable (s : State) : Outcome :=
  .next <|
    if s.life = .destroyed then s.respondInert else { s with enabled := false }.respondOk 0 0

/-- IS_PLAYING (R256): it ignores `ENABLED`, and is OK in every state. -/
def execIsPlaying (s : State) : Outcome :=
  .next <| s.respondOk 0 (flagWord 64 (s.life = .playing))

/-- EXPORT (R259). -/
def execExport (s : State) : Outcome :=
  .next <| if s.life = .destroyed then s.respondInert else s.respondOk 0 s.record

/-- `ENABLED` and `CPS` as IMPORT loads them, each field or its default (R260). -/
def State.importFields (ev en cv : Bool) (cps : BitVec 32) (s : State) : State :=
  { s with
    enabled := importedEnabled s.cfg ev en
    cps := if cv then clampCps s.cfg (cps.toNat : Int) else BitVec.ofNat 32 s.cfg.cpsNominal }

/-- IMPORT (R260). -/
def execImport (ev en cv : Bool) (cps : BitVec 32) (s : State) : Outcome :=
  .next <|
    if s.life = .destroyed then s.respondInert
    else (s.importFields ev en cv cps).respondOk 0 (s.importFields ev en cv cps).record

/-- DESTROY (R257): `Close` only when the sink is open; terminal. -/
def execDestroy (s : State) : Outcome :=
  .next <|
    match s.life with
    | .destroyed => s.respondInert
    | .uninit => { s with life := .destroyed }.respondOk 0 0
    | _ => { s.callSink .close with life := .destroyed }.respondOk 0 0

/-- READ_REG (R262): ILLEGAL for an unassigned number, in every lifecycle state. -/
def execReadReg (r : BitVec 32) (s : State) : Outcome :=
  .next <|
    match regOfNumber r with
    | none => s.respondIllegal
    | some n => s.respondOk 0 (s.readRegister n)

end Sys2Proof.Machine
end

