-- ==== Sys2Proof/Machine/RingBuffer.lean ====
section
/-! DEFINITION. RingBuffer: the meanings of PUSH, POP_BLOCK and OCCUPANCY (41_ring_buffer.md). -/

namespace Sys2Proof.Machine

/-- PUSH (R162): store the word verbatim, one atomic action on port P. -/
def execPush (w : Sample) (s : State) : Outcome :=
  .next <|
    if s.life.inert then s.respondInert
    else (s.pushSample w).respondOk 1 (BitVec.ofNat 64 s.dropsOnPush)

/-- The next action of a POP_BLOCK past its claim: a copy, or the commit (R165). -/
def State.popNext (s : State) : State :=
  if s.ctOut.length < s.ctK.toNat then s.popCopy
  else if s.life = .destroyed then
    { s.popAbandon with flight := .idle }.respond .inert s.ctK 0 s.ctOut
  else { s.popCommit with flight := .idle }.respond .ok s.ctK 0 s.ctOut

/-- POP_BLOCK (R165): its next action, which is the claim when it is not in flight (R164). -/
def execPopBlock (n : BitVec 32) (s : State) : Outcome :=
  .next <|
    match s.flight with
    | .pop => s.popNext
    | _ => if s.life.inert then s.respondInert else { s.popClaim (countOperand n) with flight := .pop }

/-- OCCUPANCY (R168): one atomic action on the issuing port; it writes nothing. -/
def execOccupancy (s : State) : Outcome :=
  .next <|
    if s.life.inert then s.respondInert else s.respondOk 0 (BitVec.ofNat 64 s.occupancy)

end Sys2Proof.Machine
end

