-- ==== Sys2Proof/Machine/Amplitude.lean ====
section
/-! DEFINITION. pcm_sample_gen: the amplitude of a window and its binary32 sample word
(40_sample_clock.md R134). -/

namespace Sys2Proof.Machine

/-- `n / d` rounded to the nearest whole number, ties to even. -/
def roundHalfEven (n d : Nat) : Nat :=
  if d < 2 * (n % d) ∨ (2 * (n % d) = d ∧ n / d % 2 = 1) then n / d + 1 else n / d

/-- The `n` with `2^(p - n) <= a / d < 2^(p - n + 1)`, where `p` is the position of `a`'s highest bit. -/
def exponentDrop (a d : Nat) : Nat :=
  if d * 2 ^ a.log2 ≤ a * 2 ^ d.log2 then d.log2 else d.log2 + 1

/-- The exponent and fraction bits of the positive rational `a / d` in binary32, rounded to nearest with
ties to even: the exponent is `p - n` biased by 127, and the 24-bit significand, whose leading 1 is
implicit, carries into it when it rounds up to `2^24` (R134). -/
def binary32Bits (a d : Nat) : Nat :=
  (126 + a.log2 - exponentDrop a d) * 2 ^ 23
    + roundHalfEven (a * 2 ^ (23 + exponentDrop a d)) (d * 2 ^ a.log2)

/-- `toSample(q)`: the binary32 bit pattern of `q`, with 0 as +0.0 (R134). -/
def toSample (q : Rat) : Sample :=
  if q.num = 0 then 0
  else if q.num < 0 then BitVec.ofNat 32 (2 ^ 31 + binary32Bits q.num.natAbs q.den)
  else BitVec.ofNat 32 (binary32Bits q.num.natAbs q.den)

/-- The exact amplitude `(2 * HIGHACC - ELAPSED) / ELAPSED` of a window (R134). -/
def amplitude (highacc elapsed : Nat) : Rat := mkRat (2 * (highacc : Int) - (elapsed : Int)) elapsed

/-- The value of a normal or zero binary32 word: sign in bit 31, exponent in bits 30:23 biased by 127,
fraction in bits 22:0 with an implicit leading 1 (R134). -/
def sampleValue (x : Sample) : Rat :=
  if x.extractLsb' 0 31 = 0 then 0
  else
    (if x.getLsbD 31 then -1 else 1)
      * mkRat ((2 ^ 23 + (x.extractLsb' 0 23).toNat) * 2 ^ (x.extractLsb' 23 8).toNat) (2 ^ 150)

end Sys2Proof.Machine
end

