-- ==== Sys2Proof/Machine/SampleClock.lean ====
section
/-! DEFINITION. SampleClock: the meaning of CYCLE (40_sample_clock.md). -/

namespace Sys2Proof.Machine

/-- `ELAPSED` after the increment of R132, as an exact integer. -/
def State.countedElapsed (s : State) : Nat := s.elapsed.toNat + s.cfg.unit

/-- `HIGHACC` after the increment of R132, with the level `HIGH` has after the toggle of R131. -/
def State.countedHigh (t : Bool) (s : State) : Nat :=
  if toggled t s.high then s.highacc.toNat + s.cfg.unit else s.highacc.toNat

/-- The part of CYCLE before the emission test: toggle (R131), then count (R132). -/
def State.countCycle (t : Bool) (s : State) : State :=
  { s with
    high := toggled t s.high
    elapsed := BitVec.ofNat 64 s.countedElapsed
    highacc := BitVec.ofNat 64 (s.countedHigh t) }

/-- The residual of an emission (R135): the overshoot `r`, and `HIGHACC` scaled by `r / ELAPSED`,
rounded down. `e` and `h` are the counted values. -/
def State.carryResidual (h e : Nat) (s : State) : State :=
  { s with
    elapsed := BitVec.ofNat 64 (e - s.cps.toNat)
    highacc := BitVec.ofNat 64 (h * (e - s.cps.toNat) / e) }

/-- CYCLE (R130): one atomic action on port P. -/
def execCycle (t : Bool) (s : State) : Outcome :=
  .next <|
    if s.life.inert then s.respondInert
    else if s.cps.toNat ≤ s.countedElapsed then
      (((s.countCycle t).carryResidual (s.countedHigh t) s.countedElapsed).pushSample
          (toSample (amplitude (s.countedHigh t) s.countedElapsed))).respondOk
        1 (BitVec.ofNat 64 s.dropsOnPush)
    else (s.countCycle t).respondOk 0 0

end Sys2Proof.Machine
end

