-- ==== Sys2Proof/Machine/Dispatch.lean ====
section
/-! DEFINITION. exec: one arm per instruction, each one direct call of its meaning. -/

namespace Sys2Proof.Machine

/-- The next action of the command `i` on the port `s.port` (00_scope.md R13). -/
def exec (i : Instr) (s : State) : Host.Outcome State Fault Refusal :=
  match i with
  | .cycle t => Sys2Proof.Machine.execCycle t s
  | .push w => Sys2Proof.Machine.execPush w s
  | .popBlock n => Sys2Proof.Machine.execPopBlock n s
  | .occupancy => Sys2Proof.Machine.execOccupancy s
  | .pump => Sys2Proof.Machine.execPump s
  | .readReg r => Sys2Proof.Machine.execReadReg r s
  | .initializeBlock => Sys2Proof.Machine.execInitialize s
  | .beginPlay => Sys2Proof.Machine.execBeginPlay s
  | .stopPlay => Sys2Proof.Machine.execStopPlay s
  | .enable => Sys2Proof.Machine.execEnable s
  | .disable => Sys2Proof.Machine.execDisable s
  | .isPlaying => Sys2Proof.Machine.execIsPlaying s
  | .exportRecord => Sys2Proof.Machine.execExport s
  | .importRecord ev en cv cps => Sys2Proof.Machine.execImport ev en cv cps s
  | .destroy => Sys2Proof.Machine.execDestroy s

end Sys2Proof.Machine
end

