-- ==== Sys2Proof/Machine/Turn.lean ====
section
/-! DEFINITION. One action of the port whose turn it is (00_scope.md R13, 70_reset_and_hazards.md R346). -/

namespace Sys2Proof.Machine

/-- The action of the port whose turn it is: the first word of its queue is decoded, an illegal one is
answered ILLEGAL, and the next action of a legal one is performed. A port with no command does
nothing (log 10). -/
def State.act (s : State) : Outcome :=
  match s.inbox s.port with
  | [] => .next s
  | w :: _ =>
    match decode s.port w with
    | .error _ => .next s.respondIllegal
    | .ok i => exec i s

/-- The machine refuses exactly the configurations that break 00_scope.md R8 (60_exceptions.md R313);
otherwise the next turn is taken and its port acts. -/
def State.stepAction (s : State) : Outcome :=
  if s.cfg.Legal then s.takeTurn.act else .refused .illegalConfiguration

end Sys2Proof.Machine
end

