-- ==== Sys2Proof/Machine/Step.lean ====
section
/-! DEFINITION. One step: one action of the scheduled port (00_scope.md R13, 70_reset_and_hazards.md R346). -/

namespace Sys2Proof.Machine

/-- One step: one action of the port whose turn it is. -/
def step (s : State) : Host.Outcome State Fault Refusal := s.stepAction

/-- `s` with the word `w` of `nbits` bits arrived as the next command: first in the queue of its home
port, nothing in flight before it on port C, and that port's turn next (log 8). -/
def State.withFetchWord (s : State) (nbits w : Nat) : State :=
  s.arriveFirst (BitVec.ofNat 64 (w % 2 ^ nbits)) (homePort (BitVec.ofNat 64 (w % 2 ^ nbits)))

end Sys2Proof.Machine
end

