-- ==== Sys2Proof/Machine/Assembler.lean ====
section
/-! DEFINITION. The assembler lines of 30_encoding.md R110 as data, with the pseudo-commands of R111, and
the command words they stand for (log 20). -/

namespace Sys2Proof.Machine

/-- A mnemonic with its operands, as R110 lists them, or a pseudo-command of R111. -/
inductive AsmOp where
  | cycle (t : Bool)
  | push (w : Sample)
  /-- `PUSH f(q)` means `toSample(q)`. -/
  | pushReal (q : Rat)
  | popBlock (n : BitVec 32)
  | occupancy
  | pump
  | readReg (r : BitVec 32)
  | readRegNamed (r : RegName)
  | initializeBlock
  | beginPlay
  | stopPlay
  | enable
  | disable
  | isPlaying
  | exportRecord
  /-- `IMPORT en=.., cps=..`, with `none` for `-`. -/
  | importFields (en : Option Bool) (cps : Option (BitVec 32))
  | destroy
  | tick
  | toggle
  | defaults
  | restore (e : Bool) (c : BitVec 32)
  | mute
  | unmute
  deriving DecidableEq, Repr

/-- The instruction of an IMPORT line: an absent field encodes as 0 (R110). -/
def importLine (en : Option Bool) (cps : Option (BitVec 32)) : Instr :=
  .importRecord en.isSome (en.getD false) cps.isSome (cps.getD 0)

/-- The instruction a mnemonic stands for; the pseudo-commands expand as in R111. -/
def AsmOp.instr : AsmOp → Instr
  | .cycle t => .cycle t
  | .push w => .push w
  | .pushReal q => .push (toSample q)
  | .popBlock n => .popBlock n
  | .occupancy => .occupancy
  | .pump => .pump
  | .readReg r => .readReg r
  | .readRegNamed r => .readReg r.number
  | .initializeBlock => .initializeBlock
  | .beginPlay => .beginPlay
  | .stopPlay => .stopPlay
  | .enable => .enable
  | .disable => .disable
  | .isPlaying => .isPlaying
  | .exportRecord => .exportRecord
  | .importFields en cps => importLine en cps
  | .destroy => .destroy
  | .tick => .cycle false
  | .toggle => .cycle true
  | .defaults => importLine none none
  | .restore e c => importLine (some e) (some c)
  | .mute => .disable
  | .unmute => .enable

/-- One line: its port, its command, and the `xN` repeat count (R110). -/
structure AsmLine where
  port : Port
  op : AsmOp
  times : Nat
  deriving DecidableEq, Repr

/-- The command words a line issues, in order. -/
def AsmLine.words (l : AsmLine) : List CommandWord := List.replicate l.times (encode l.op.instr)

end Sys2Proof.Machine
end

