-- ==== Sys2Proof/Safety.lean ====
section
/-! DEFINITION. The terms claims use: what the block's own state is, what a good state is, the queue the
ring stands for, the sink's protocol, and runs of one port's actions. -/

namespace Sys2Proof.Machine

/-- The block's own state: the model's fields for commands, schedule and sink are blanked. -/
def State.block (s : State) : State :=
  { s with
    port := .producer
    inP := []
    inC := []
    inH := []
    outP := []
    outC := []
    outH := []
    schedule := []
    turns := 0
    sinkOpens := []
    sinkAccepts := []
    sinkDepths := []
    draws := 0
    sinkCalls := [] }

/-- From `s` to `t`, port `p` got exactly the response `r` for its oldest command, and the other ports
got none (30_encoding.md R107, R108). -/
def State.Answered (s t : State) (p : Port) (r : Response) : Prop :=
  t.inbox p = (s.inbox p).tail ∧ t.outbox p = s.outbox p ++ [r] ∧
    ∀ q, q ≠ p → t.inbox q = s.inbox q ∧ t.outbox q = s.outbox q

/-- Whenever `w` is the oldest command on port `q` and that port has its turn, the step answers ILLEGAL and
changes no state of the block (30_encoding.md R104 to R106). -/
def AnsweredIllegal (q : Port) (w : CommandWord) : Prop :=
  ∀ (s : State) (later : List Port) (ws : List CommandWord), s.cfg.Legal → s.schedule = q :: later →
    s.inbox q = w :: ws →
    ∃ t, step s = .next t ∧ t.block = s.block ∧ t.sinkCalls = s.sinkCalls ∧
      s.Answered t q ⟨.illegal, 0, 0, []⟩

/-- The unread samples, oldest first: the live region of 20_memory.md R74. -/
def State.live (s : State) : List Sample :=
  (List.range s.occupancy).map fun i => s.readStore ((s.rptr.toNat + i) % s.cfg.capacity)

/-- A POP_BLOCK is past its claim, issued directly or inside PUMP (10_state.md R38). -/
def Flight.inPop : Flight → Bool
  | .idle => false
  | .pop => true
  | .pump l => l.point = .popping

/-- The command in flight on port C is the one its first word stands for (00_scope.md R13). -/
def State.FlightMatches (s : State) : Prop :=
  match s.flight with
  | .idle => True
  | .pop => ∃ w n, s.inC.head? = some w ∧ decode .consumer w = .ok (.popBlock n)
  | .pump _ => ∃ w, s.inC.head? = some w ∧ decode .consumer w = .ok .pump

/-- What holds of a PUMP in flight at each of its points (43_output_pump.md R224, R225). -/
def State.PumpOk (s : State) (l : PumpFlight) : Prop :=
  match l.point with
  | .claim => s.cfg.pushThreshold < s.occupancy
  | .popping => 1 ≤ s.ctK.toNat ∧ s.ctK.toNat ≤ s.cfg.block
  | .offerPending => l.fwd = true ∧ 1 ≤ s.pendLen.toNat
  | .offerBlock blk => l.fwd = true ∧ 1 ≤ blk.length ∧ blk.length ≤ s.cfg.block
  | .queuedDepth => True
  | .flush _ => True
  | .adjust _ => True

/-- A good state: the legal values of 10_state.md R35, the bound of 40_sample_clock.md R141 (a), the
canonical form of the storage arrays, and a command in flight that agrees with the transaction state. -/
structure State.Inv (s : State) : Prop where
  /-- 00_scope.md R8 -/
  legal : s.cfg.Legal
  /-- `CPS` in `[CPS_MIN, CPS_MAX]` (R35, R202) -/
  cps_range : s.cfg.cpsMin ≤ s.cps.toNat ∧ s.cps.toNat ≤ s.cfg.cpsMax
  /-- `WPTR` in `[0, C)` (R35) -/
  wptr_lt : s.wptr.toNat < s.cfg.capacity
  /-- `RPTR` in `[0, C)` (R35) -/
  rptr_lt : s.rptr.toNat < s.cfg.capacity
  /-- the occupancy in `[0, DROP_HWM]` (R35, R161) -/
  occupancy_le : s.occupancy ≤ s.cfg.dropHwm
  /-- `PEND_LEN` in `[0, B]` (R35) -/
  pendLen_le : s.pendLen.toNat ≤ s.cfg.block
  /-- `HIGHACC <= ELAPSED` (R35, R137) -/
  highacc_le : s.highacc.toNat ≤ s.elapsed.toNat
  /-- `ELAPSED < CPS_MAX + UNIT` (R141 a) -/
  elapsed_lt : s.elapsed.toNat < s.cfg.cpsMax + s.cfg.unit
  /-- `Store` is canonical and within `0..C-1` (R36) -/
  store_ok : s.store.wf ∧ ∀ x ∈ s.store, x.1 < s.cfg.capacity
  /-- `Pend` is canonical and within `0..B-1` (R36) -/
  pend_ok : s.pend.wf ∧ ∀ x ∈ s.pend, x.1 < s.cfg.block
  /-- the command in flight is the first of port C's queue -/
  flight_matches : s.FlightMatches
  /-- nothing is in flight before INITIALIZE -/
  flight_life : s.flight ≠ .idle → s.life ≠ .uninit
  /-- `CT_ACTIVE` exactly while a pop is past its claim (R38) -/
  ct_active : s.ctActive = s.flight.inPop
  /-- the claimed samples are still in the ring (R165) -/
  ct_ok : s.flight.inPop = true →
    s.ctK.toNat ≤ s.occupancy ∧ s.ctR0.toNat < s.cfg.capacity ∧ s.ctOut.length ≤ s.ctK.toNat
  /-- a PUMP in flight -/
  pump_ok : ∀ l, s.flight = .pump l → s.PumpOk l

/-- Every cell a rule can read next has been written: the live region, the rest of a claim, and the
pending tail (10_state.md R36: no cell is read before it is written). -/
structure State.CellsWritten (s : State) : Prop where
  live : ∀ i, i < s.occupancy → (s.store.find ((s.rptr.toNat + i) % s.cfg.capacity)).isSome
  claimed : s.flight.inPop = true →
    ∀ i, s.ctOut.length ≤ i → i < s.ctK.toNat →
      (s.store.find ((s.ctR0.toNat + i) % s.cfg.capacity)).isSome
  pending : ∀ i, i < s.pendLen.toNat → (s.pend.find i).isSome

/-- The connection to the sink as its calls leave it. -/
inductive SinkLink where
  | notOpen
  | opened
  | closed
  /-- A call that 43_output_pump.md R231 forbids has been made. -/
  | broken
  deriving DecidableEq, Repr

/-- The connection after one more call: `Enqueue` (of at least one sample, of which at most all are
taken), `QueuedDepth` and `Flush` only while open, `Close` at most once, nothing after it (R230, R231). -/
def SinkLink.after : SinkLink → SinkCall → SinkLink
  | .notOpen, .openSink _ _ _ ok => if ok then .opened else .notOpen
  | .opened, .enqueue xs a => if 1 ≤ xs.length ∧ a ≤ xs.length then .opened else .broken
  | .opened, .queuedDepth _ => .opened
  | .opened, .flush => .opened
  | .opened, .close => .closed
  | _, _ => .broken

/-- The connection after all the calls made so far. -/
def State.sinkLink (s : State) : SinkLink := s.sinkCalls.foldl SinkLink.after .notOpen

/-- The calls made so far keep the protocol, and the connection is the one `LIFE` says
(43_output_pump.md R231, 70_reset_and_hazards.md R335). -/
def State.SinkProtocol (s : State) : Prop :=
  match s.life with
  | .uninit => s.sinkLink = .notOpen
  | .stopped => s.sinkLink = .opened
  | .playing => s.sinkLink = .opened
  | .destroyed => s.sinkLink = .notOpen ∨ s.sinkLink = .closed

/-- An upper bound on the actions the command in flight on port C still takes (70_reset_and_hazards.md R352). -/
def State.actionsLeft (s : State) : Nat :=
  match s.flight with
  | .idle => 0
  | .pop => s.ctK.toNat - s.ctOut.length + 1
  | .pump l =>
    match l.point with
    | .claim => s.cfg.block + 6
    | .popping => s.ctK.toNat - s.ctOut.length + 5
    | .offerPending => 4
    | .offerBlock _ => 4
    | .queuedDepth => 3
    | .flush _ => 2
    | .adjust _ => 1

/-- `n` actions of one command in a row, with no action of another port between them. -/
def actions (i : Instr) : Nat → State → Outcome
  | 0, s => .next s
  | n + 1, s =>
    match exec i s with
    | .next t => actions i n t
    | .fault f => .fault f
    | .refused r => .refused r

/-- CYCLEs in a row, one for each toggle flag. -/
def cycles : List Bool → State → Outcome
  | [], s => .next s
  | t :: ts, s =>
    match exec (.cycle t) s with
    | .next u => cycles ts u
    | .fault f => .fault f
    | .refused r => .refused r

/-- The number of samples a run of CYCLEs emitted: the sum of the `count` fields of its responses
(40_sample_clock.md R130), which `new` lists. -/
def emitted (new : List Response) : Nat := (new.map fun r => r.count.toNat).sum

/-- The number of CYCLEs of a run at which `HIGH` is 1 after the toggle, from level `high` on
(40_sample_clock.md R131, R142). -/
def highCycles : Bool → List Bool → Nat
  | _, [] => 0
  | high, t :: ts => (if toggled t high then 1 else 0) + highCycles (toggled t high) ts

end Sys2Proof.Machine
end

