-- ==== Sys2Proof/Certificates/Slice0/Obligations.lean ====
section
/-! DEFINITION. The statements for the provers. -/

open Sys2Proof Sys2Proof.Machine

/-! ### Encoding (30_encoding.md) -/

/-- Decoding an encoded instruction gives it back on every port R103 lists for it, and is refused on
every other port, for every operand value (R100, R102, R103, R106). -/
def Obligations.DecodeOfEncodeIsTheCommand : Prop :=
  ∀ (q : Port) (i : Instr), decode q (encode i) = if q ∈ i.ports then .ok i else .error .wrongPort

/-- A word that decodes is the encoding of what it decodes to: decoding drops no bit (R100, R103, R104). -/
def Obligations.EncodeOfDecodeIsTheWord : Prop :=
  ∀ (q : Port) (w : CommandWord) (i : Instr), decode q w = .ok i → encode i = w ∧ q ∈ i.ports

/-- The decoder is the table lookup of R109: at most one row of R103 selects a word; a selected row's
command is decoded, with the word's FLG and IMM, on exactly the row's ports; a word no row selects is
illegal on every port; and every illegal verdict leads to the ILLEGAL response. -/
def Obligations.DecodeFollowsTheMatchMaskTable : Prop :=
  (∀ (w : CommandWord) (r r' : TableRow), r ∈ opcodeTable → r' ∈ opcodeTable → r.Selects w →
      r'.Selects w → r = r') ∧
  (∀ (q : Port) (w : CommandWord) (r : TableRow), r ∈ opcodeTable → r.Selects w →
      (q ∈ r.ports → ∃ i, decode q w = .ok i ∧ i.mnemonic = r.mnemonic ∧
        i.flg = w.extractLsb' 32 4 ∧ i.imm = w.extractLsb' 0 32) ∧
      (q ∉ r.ports → ∃ e, decode q w = .error e)) ∧
  (∀ (q : Port) (w : CommandWord), (∀ r ∈ opcodeTable, ¬ r.Selects w) → ∃ e, decode q w = .error e) ∧
  (∀ (q : Port) (w : CommandWord) (e : Illegal), decode q w = .error e → AnsweredIllegal q w)

/-- R104: a word whose opcode is defined but whose masked bits differ from its row's match is illegal on
every port: it is answered ILLEGAL and changes no state. -/
def Obligations.ReservedFieldsAreIllegal : Prop :=
  ∀ (q : Port) (w : CommandWord) (r : TableRow), r ∈ opcodeTable →
    w.extractLsb' 56 8 = r.pattern.extractLsb' 56 8 → ¬ r.Selects w →
    decode q w = .error .fieldNotZero ∧ AnsweredIllegal q w

/-- R105: the opcodes 0x00, 0x07 to 0x0F and 0x19 to 0xFF are illegal on every port, whatever the other
bits; so is the all-zero word. -/
def Obligations.UndefinedOpcodesAreIllegal : Prop :=
  (∀ (q : Port) (w : CommandWord),
    ((w.extractLsb' 56 8).toNat = 0 ∨ (7 ≤ (w.extractLsb' 56 8).toNat ∧ (w.extractLsb' 56 8).toNat ≤ 15) ∨
      25 ≤ (w.extractLsb' 56 8).toNat) →
    decode q w = .error .undefinedOpcode ∧ AnsweredIllegal q w) ∧
  ∀ q : Port, AnsweredIllegal q 0

/-- R106: a legal word on a port that R103 does not list for it is answered ILLEGAL and changes no state. -/
def Obligations.WrongPortIsIllegal : Prop :=
  ∀ (q : Port) (w : CommandWord) (r : TableRow), r ∈ opcodeTable → r.Selects w → q ∉ r.ports →
    decode q w = .error .wrongPort ∧ AnsweredIllegal q w

/-- The worked encodings of R112, written out, decode to the commands they stand for. -/
def Obligations.WorkedEncodingsDecode : Prop :=
  decode .producer 0x0100000100000000 = .ok (.cycle true) ∧
  decode .producer 0x020000003F800000 = .ok (.push 0x3F800000) ∧
  decode .consumer 0x0300000000000004 = .ok (.popBlock 4) ∧
  decode .host 0x17000005000A0000 = .ok (.importRecord true false true 0x000A0000) ∧
  decode .host 0x0600000000000004 = .ok (.readReg 4) ∧
  decode .producer 0x0100000200000000 = .error .fieldNotZero ∧
  decode .host 0x0700000000000000 = .error .undefinedOpcode

/-- R111: the pseudo-commands stand for the words its table gives. -/
def Obligations.PseudoCommandsExpand : Prop :=
  encode AsmOp.tick.instr = 0x0100000000000000 ∧
  encode AsmOp.toggle.instr = 0x0100000100000000 ∧
  encode AsmOp.defaults.instr = 0x1700000000000000 ∧
  (∀ (e : Bool) (c : BitVec 32), encode (AsmOp.restore e c).instr =
    (if e then 0x17000007#32 else 0x17000005#32) ++ c) ∧
  encode AsmOp.mute.instr = 0x1400000000000000 ∧
  encode AsmOp.unmute.instr = 0x1300000000000000

/-! ### The step (00_scope.md R13, 60_exceptions.md) -/

/-- When the oldest word on the port whose turn it is decodes to `i`, the step is `exec i` on the state
with that port marked and its turn taken. The queues and the listed schedule are the model's choice
(logs 8, 9). -/
def Obligations.StepRunsTheScheduledCommand : Prop :=
  ∀ (s : State) (q : Port) (later : List Port) (w : CommandWord) (ws : List CommandWord) (i : Instr),
    s.cfg.Legal → s.schedule = q :: later → s.inbox q = w :: ws → decode q w = .ok i →
    step s = exec i { s with port := q, schedule := later }

/-- No command faults and none is refused; the machine refuses exactly the configurations that break R8
(R313; the model checks at every step, log 2). -/
def Obligations.OnlyIllegalConfigurationsStop : Prop :=
  ∀ s : State,
    (s.cfg.Legal → ∃ t, step s = .next t) ∧ (¬ s.cfg.Legal → step s = .refused .illegalConfiguration)

/-- Every step gives at most one response, on the port whose turn it was and for its oldest command; a
command on port P or H has its response at once; a command on port C has it exactly when nothing is in
flight on port C afterwards (R300, R107, R108). That a port without a command may have a turn, which
then gives no response, is the model's choice (logs 8, 10). -/
def Obligations.EveryCommandEndsWithOneResponse : Prop :=
  ∀ s t : State, s.Inv → step s = .next t →
    (∀ q, q ≠ s.takeTurn.port → t.inbox q = s.inbox q ∧ t.outbox q = s.outbox q) ∧
    (s.inbox s.takeTurn.port = [] →
      t.inbox s.takeTurn.port = [] ∧ t.outbox s.takeTurn.port = s.outbox s.takeTurn.port) ∧
    (s.inbox s.takeTurn.port ≠ [] →
      (s.takeTurn.port ≠ .consumer ∨ t.flight = .idle → ∃ r, s.Answered t s.takeTurn.port r) ∧
      (s.takeTurn.port = .consumer ∧ t.flight ≠ .idle →
        t.inbox .consumer = s.inbox .consumer ∧ t.outbox .consumer = s.outbox .consumer))

/-- R79: a port P action is never held. Whatever the other ports are doing, when the schedule picks port
P its oldest command is answered in that one step. -/
def Obligations.ProducerNeverWaits : Prop :=
  ∀ (s : State) (later : List Port) (w : CommandWord) (ws : List CommandWord), s.cfg.Legal →
    s.schedule = .producer :: later → s.inP = w :: ws →
    ∃ t r, step s = .next t ∧ t.inP = ws ∧ t.outP = s.outP ++ [r]

/-- Every command on port C ends: each of its actions lowers `actionsLeft`, no action of another port
changes it, it is `k + 1` after a POP_BLOCK's claim of `k` samples and at most `B + 6` after a PUMP's
first action, so that a POP_BLOCK takes `k + 2` actions and a PUMP at most `B + 7` (R352, R220). How the
model holds a command in flight is its own choice (logs 6, 7). -/
def Obligations.PortCCommandsEnd : Prop :=
  ∀ s t : State, s.Inv → step s = .next t →
    (s.takeTurn.port ≠ .consumer → t.actionsLeft = s.actionsLeft) ∧
    (s.takeTurn.port = .consumer → s.flight ≠ .idle → t.actionsLeft + 1 ≤ s.actionsLeft) ∧
    (s.flight = .pop → t.flight = .pop → s.takeTurn.port = .consumer →
      t.actionsLeft + 1 = s.actionsLeft) ∧
    (s.flight = .idle → t.flight = .pop → t.actionsLeft = t.ctK.toNat + 1) ∧
    (s.flight = .idle → t.flight ≠ .pop → t.actionsLeft ≤ s.cfg.block + 6) ∧
    (t.actionsLeft = 0 ↔ t.flight = .idle)

/-! ### Power-on and the invariants -/

/-- The power-on values of R330, for every configuration record. -/
def Obligations.PowerOnState : Prop :=
  ∀ c : Config,
    (State.powerOn c).cfg = c ∧ (State.powerOn c).life = .uninit ∧
    (State.powerOn c).enabled = c.enabledDefault ∧ (State.powerOn c).high = false ∧
    (c.Legal → (State.powerOn c).cps.toNat = c.cpsNominal) ∧
    (State.powerOn c).elapsed = 0 ∧ (State.powerOn c).highacc = 0 ∧ (State.powerOn c).wptr = 0 ∧
    (State.powerOn c).rptr = 0 ∧ (State.powerOn c).drops = 0 ∧ (State.powerOn c).pendLen = 0 ∧
    (State.powerOn c).ctActive = false ∧ (State.powerOn c).flight = .idle ∧
    (State.powerOn c).statusWord = (if c.enabledDefault then 4 else 0)

/-- Power-on with a legal configuration, and so `State.reset`, is a good state whose readable cells are
written and whose sink protocol holds. The record of `State.reset` is the model's choice (log 1). -/
def Obligations.PowerOnStateIsGood : Prop :=
  (∀ c : Config, c.Legal →
    (State.powerOn c).Inv ∧ (State.powerOn c).CellsWritten ∧ (State.powerOn c).SinkProtocol) ∧
  State.reset.Inv ∧ State.reset.CellsWritten ∧ State.reset.SinkProtocol

/-- Every step from a good state leads to a good state, in every interleaving and without hazard HZ2's
duty: the ranges of R35, the bounds of R137, R141 (a) and R161, canonical storage, and a transaction
state that agrees with the command in flight. -/
def Obligations.StepKeepsTheStateGood : Prop :=
  ∀ s t : State, s.Inv → step s = .next t → t.Inv

/-- No cell is read before it is written (R36): every cell of the live region, of the rest of a claim and
of the pending tail has been written, and every step keeps it so. -/
def Obligations.StepKeepsReadableCellsWritten : Prop :=
  ∀ s t : State, s.Inv → s.CellsWritten → step s = .next t → t.CellsWritten

/-- The block keeps its duties to the sink (R231, R335): every step keeps the calls made so far within
the protocol, with `Close` at most once and nothing after it. -/
def Obligations.StepKeepsTheSinkProtocol : Prop :=
  ∀ s t : State, s.Inv → s.SinkProtocol → step s = .next t → t.SinkProtocol

/-- R33: each register is written only by the commands its row names. -/
def Obligations.RegistersChangeOnlyByTheirWriters : Prop :=
  ∀ (i : Instr) (s t : State), exec i s = .next t →
    t.cfg = s.cfg ∧
    (t.cps ≠ s.cps → i.mnemonic ∈ ["IMPORT", "INITIALIZE", "PUMP"]) ∧
    (t.elapsed ≠ s.elapsed ∨ t.highacc ≠ s.highacc → i.mnemonic ∈ ["CYCLE", "INITIALIZE"]) ∧
    (t.wptr ≠ s.wptr → i.mnemonic ∈ ["CYCLE", "PUSH", "INITIALIZE"]) ∧
    (t.rptr ≠ s.rptr → i.mnemonic ∈ ["CYCLE", "PUSH", "POP_BLOCK", "PUMP", "INITIALIZE"]) ∧
    (t.drops ≠ s.drops → i.mnemonic ∈ ["CYCLE", "PUSH", "INITIALIZE"]) ∧
    (t.pendLen ≠ s.pendLen → i.mnemonic ∈ ["PUMP", "INITIALIZE"]) ∧
    (t.high ≠ s.high → i.mnemonic ∈ ["CYCLE", "INITIALIZE"]) ∧
    (t.enabled ≠ s.enabled → i.mnemonic ∈ ["ENABLE", "DISABLE", "IMPORT", "INITIALIZE"]) ∧
    (t.life ≠ s.life → i.mnemonic ∈ ["INITIALIZE", "BEGIN_PLAY", "STOP_PLAY", "DESTROY"]) ∧
    (t.store ≠ s.store → i.mnemonic ∈ ["CYCLE", "PUSH"]) ∧
    (t.pend ≠ s.pend → i.mnemonic ∈ ["PUMP"])

/-- R307: what the commands of each port may not touch. INITIALIZE, which R251 has write both cursors,
is set apart: that choice between the two rules is the model's (log 15). -/
def Obligations.PortsTouchOnlyWhatTheyMay : Prop :=
  ∀ s t : State, step s = .next t →
    (s.takeTurn.port = .producer →
      t.life = s.life ∧ t.enabled = s.enabled ∧ t.cps = s.cps ∧ t.pendLen = s.pendLen ∧
      t.pend = s.pend ∧ t.ctActive = s.ctActive ∧ t.ctR0 = s.ctR0 ∧ t.ctK = s.ctK ∧ t.ctOut = s.ctOut ∧
      t.flight = s.flight ∧ t.sinkCalls = s.sinkCalls) ∧
    (s.takeTurn.port = .consumer →
      t.store = s.store ∧ t.wptr = s.wptr ∧ t.drops = s.drops ∧ t.high = s.high ∧
      t.elapsed = s.elapsed ∧ t.highacc = s.highacc ∧ t.life = s.life ∧ t.enabled = s.enabled) ∧
    (s.takeTurn.port = .host →
      t.store = s.store ∧ t.pend = s.pend ∧ t.ctActive = s.ctActive ∧ t.ctR0 = s.ctR0 ∧
      t.ctK = s.ctK ∧ t.ctOut = s.ctOut ∧ t.flight = s.flight ∧
      (s.life ≠ .uninit → t.wptr = s.wptr ∧ t.rptr = s.rptr ∧ t.elapsed = s.elapsed ∧
        t.highacc = s.highacc ∧ t.high = s.high ∧ t.drops = s.drops ∧ t.pendLen = s.pendLen))

/-- The transition table of R250, for every command and lifecycle state; a command it does not list
leaves `LIFE` as it is. -/
def Obligations.LifecycleTransitions : Prop :=
  ∀ (i : Instr) (s : State), ∃ t, exec i s = .next t ∧
    t.life =
      match i, s.life with
      | .initializeBlock, .uninit => if s.nextOpen then .stopped else .uninit
      | .beginPlay, .stopped => .playing
      | .stopPlay, .playing => .stopped
      | .destroy, _ => .destroyed
      | _, l => l

/-- DESTROYED is terminal (R250, R257, R331): every command but IS_PLAYING and READ_REG is INERT there,
and no step leaves it, changes a register or a stored sample, or calls the sink. -/
def Obligations.DestroyedIsTerminal : Prop :=
  (∀ (i : Instr) (s : State), s.life = .destroyed → s.flight = .idle → i ≠ .isPlaying →
    (∀ r, i ≠ .readReg r) → exec i s = .next (s.respond .inert 0 0 [])) ∧
  ∀ s t : State, s.life = .destroyed → step s = .next t →
    t.life = .destroyed ∧ t.cps = s.cps ∧ t.elapsed = s.elapsed ∧ t.highacc = s.highacc ∧
    t.wptr = s.wptr ∧ t.rptr = s.rptr ∧ t.drops = s.drops ∧ t.pendLen = s.pendLen ∧ t.high = s.high ∧
    t.enabled = s.enabled ∧ t.store = s.store ∧ t.pend = s.pend ∧ t.sinkCalls = s.sinkCalls

/-- R332: in UNINIT the data-path commands, BEGIN_PLAY and STOP_PLAY are inert: no state of the block
changes and each responds INERT. The same holds of them in DESTROYED (R139, R162, R165, R168, R220). -/
def Obligations.InertUntilInitialized : Prop :=
  ∀ (i : Instr) (s : State), (s.life = .uninit ∨ s.life = .destroyed) → s.flight = .idle →
    i.mnemonic ∈ ["CYCLE", "PUSH", "POP_BLOCK", "OCCUPANCY", "PUMP", "BEGIN_PLAY", "STOP_PLAY"] →
    ∃ t, exec i s = .next t ∧ t.block = s.block ∧ t.sinkCalls = s.sinkCalls ∧
      s.Answered t s.port ⟨.inert, 0, 0, []⟩

/-! ### SampleClock (40_sample_clock.md) -/

/-- R131, R133: `HIGH` is inverted before the cycle is counted exactly when `T = 1`, the cycle counts at the
new level, and a sample is emitted in the same CYCLE exactly when the counted `ELAPSED` is at least
`CPS`. `e` and `h` are `ELAPSED` and `HIGHACC` after the count of R132. -/
def Obligations.CycleTogglesThenCountsThenCompares : Prop :=
  ∀ (b : Bool) (s : State) (h e : Nat), s.Inv → (s.life = .stopped ∨ s.life = .playing) →
    e = s.elapsed.toNat + s.cfg.unit →
    h = s.highacc.toNat + (if (if b then !s.high else s.high) then s.cfg.unit else 0) →
    ∃ t n d, exec (.cycle b) s = .next t ∧ t.high = (if b then !s.high else s.high) ∧
      s.Answered t s.port ⟨.ok, n, d, []⟩ ∧
      (e < s.cps.toNat → n = 0 ∧ t.wptr = s.wptr ∧ t.store = s.store ∧
        t.elapsed.toNat = e ∧ t.highacc.toNat = h) ∧
      (s.cps.toNat ≤ e → n = 1 ∧ t.wptr.toNat = (s.wptr.toNat + 1) % s.cfg.capacity ∧
        t.readStore s.wptr.toNat = toSample (amplitude h e))

/-- CYCLE without an emission: the toggle comes first (R131), one UNIT is counted (R132), and nothing
else changes (R130, R133). -/
def Obligations.CycleCountsOneUnit : Prop :=
  ∀ (b : Bool) (s : State), s.Inv → (s.life = .stopped ∨ s.life = .playing) →
    s.elapsed.toNat + s.cfg.unit < s.cps.toNat →
    ∃ t, exec (.cycle b) s = .next t ∧
      t.high = (if b then !s.high else s.high) ∧
      t.elapsed.toNat = s.elapsed.toNat + s.cfg.unit ∧
      t.highacc.toNat = s.highacc.toNat + (if t.high then s.cfg.unit else 0) ∧
      s.Answered t s.port ⟨.ok, 0, 0, []⟩ ∧
      t.block = { s.block with high := t.high, elapsed := t.elapsed, highacc := t.highacc } ∧
      t.sinkCalls = s.sinkCalls

/-- CYCLE with an emission (R130, R133 to R136): the residuals of R135, one sample pushed at `WPTR`, the
drop policy of R161, one response with the counts, and nothing else changes. `h` and `e` are `HIGHACC`
and `ELAPSED` after the increment of R132. -/
def Obligations.CycleEmitsOneSample : Prop :=
  ∀ (b : Bool) (s : State) (h e : Nat), s.Inv → (s.life = .stopped ∨ s.life = .playing) →
    e = s.elapsed.toNat + s.cfg.unit →
    h = s.highacc.toNat + (if (if b then !s.high else s.high) then s.cfg.unit else 0) →
    s.cps.toNat ≤ e →
    ∃ t, exec (.cycle b) s = .next t ∧
      t.high = (if b then !s.high else s.high) ∧
      t.elapsed.toNat = e - s.cps.toNat ∧
      t.highacc.toNat = h * (e - s.cps.toNat) / e ∧
      t.wptr.toNat = (s.wptr.toNat + 1) % s.cfg.capacity ∧
      t.readStore s.wptr.toNat = toSample ((2 * (h : Rat) - e) / e) ∧
      (∀ a, a ≠ s.wptr.toNat → t.readStore a = s.readStore a) ∧
      (s.occupancy < s.cfg.dropHwm → t.rptr = s.rptr ∧ t.drops = s.drops ∧
        s.Answered t s.port ⟨.ok, 1, 0, []⟩) ∧
      (s.occupancy = s.cfg.dropHwm → t.rptr.toNat = (s.rptr.toNat + 1) % s.cfg.capacity ∧
        t.drops = s.drops + 1 ∧ s.Answered t s.port ⟨.ok, 1, 1, []⟩) ∧
      t.block =
        { s.block with
          high := t.high, elapsed := t.elapsed, highacc := t.highacc, wptr := t.wptr,
          rptr := t.rptr, drops := t.drops, store := t.store } ∧
      t.sinkCalls = s.sinkCalls

/-- R141 (b) and (c): when `CPS` was lowered by a net `delta` of at most `CPS_MIN - UNIT` (0 when it was
not written) since a CYCLE that left `ELAPSED < CPS`, the next CYCLE again leaves `ELAPSED < CPS`, and
the overshoot of an emission is below `delta + UNIT`. -/
def Obligations.OvershootStaysBounded : Prop :=
  ∀ (b : Bool) (s t : State) (delta : Nat), s.Inv → (s.life = .stopped ∨ s.life = .playing) →
    delta + s.cfg.unit ≤ s.cfg.cpsMin → s.elapsed.toNat < s.cps.toNat + delta →
    exec (.cycle b) s = .next t →
    t.elapsed.toNat < s.cps.toNat ∧
    (s.cps.toNat ≤ s.elapsed.toNat + s.cfg.unit → t.elapsed.toNat < delta + s.cfg.unit)

/-- R143: with `CPS` constant from a state with `ELAPSED = 0`, after any number of CYCLEs on port P the
units counted less the emissions times `CPS` are `ELAPSED`; right after an emission `ELAPSED < UNIT`. -/
def Obligations.ResamplingIsDriftFree : Prop :=
  ∀ (ts : List Bool) (s : State), s.Inv → (s.life = .stopped ∨ s.life = .playing) →
    s.port = .producer → s.elapsed = 0 →
    ∃ t new, cycles ts s = .next t ∧ t.cps = s.cps ∧ t.outP = s.outP ++ new ∧
      new.length = ts.length ∧
      ts.length * s.cfg.unit = emitted new * s.cps.toNat + t.elapsed.toNat ∧
      t.elapsed.toNat < s.cps.toNat ∧
      (∀ r, new.getLast? = some r → r.count = 1 → t.elapsed.toNat < s.cfg.unit)

/-- R142: a window that starts with `ELAPSED = HIGHACC = 0` under `CPS = N * UNIT` ends at exactly its
`N`-th CYCLE, with residual 0 and the one sample `toSample(2*H/N - 1)` pushed, where `H` counts its
CYCLEs with `HIGH = 1`. -/
def Obligations.DutyCycleIsCorrect : Prop :=
  ∀ (ts : List Bool) (s : State), s.Inv → (s.life = .stopped ∨ s.life = .playing) →
    s.port = .producer → s.elapsed = 0 → s.highacc = 0 → s.cps.toNat = ts.length * s.cfg.unit →
    ∃ t new r, cycles ts s = .next t ∧ t.elapsed = 0 ∧ t.highacc = 0 ∧
      t.outP = s.outP ++ new ++ [r] ∧ (∀ x ∈ new, x.count = 0) ∧ r.count = 1 ∧
      t.readStore s.wptr.toNat =
        toSample (2 * (highCycles s.high ts : Rat) / (ts.length : Rat) - 1) ∧
      t.wptr.toNat = (s.wptr.toNat + 1) % s.cfg.capacity

/-- R134: the amplitude is in [-1, +1], and the binary32 word of it is within 2^-25 of it. -/
def Obligations.SampleIsWithinTheRoundingBound : Prop :=
  ∀ h e : Nat, h ≤ e → 0 < e → e < 2 ^ 34 →
    -1 ≤ amplitude h e ∧ amplitude h e ≤ 1 ∧
    |sampleValue (toSample (amplitude h e)) - amplitude h e| ≤ 1 / 2 ^ 25

/-- R134: 0, +1 and -1 map to their words, and no sample of a nonzero amplitude is subnormal, infinite
or NaN: its exponent field is neither 0 nor 255. The binary32 rounding is log 13's. -/
def Obligations.SamplesAreZeroOrNormal : Prop :=
  toSample 0 = 0x00000000 ∧ toSample 1 = 0x3F800000 ∧ toSample (-1) = 0xBF800000 ∧
  ∀ h e : Nat, h ≤ e → 0 < e → e < 2 ^ 34 → amplitude h e ≠ 0 →
    1 ≤ ((toSample (amplitude h e)).extractLsb' 23 8).toNat ∧
    ((toSample (amplitude h e)).extractLsb' 23 8).toNat ≤ 254

/-- R144: CYCLE does the same in STOPPED and in PLAYING, muted or not. -/
def Obligations.CountingIgnoresTheGate : Prop :=
  ∀ (b : Bool) (s : State) (l : Life) (en : Bool), (s.life = .stopped ∨ s.life = .playing) →
    (l = .stopped ∨ l = .playing) →
    ∃ t, exec (.cycle b) s = .next t ∧ t.life = s.life ∧ t.enabled = s.enabled ∧
      exec (.cycle b) { s with life := l, enabled := en } = .next { t with life := l, enabled := en }

/-! ### RingBuffer (41_ring_buffer.md) -/

/-- PUSH (R162) with the drop corner cases of R163: the word is stored verbatim at `WPTR` and no other
cell changes; at `DROP_HWM` the oldest sample is dropped and counted, below it nothing is; `DROPS`
wraps; nothing else changes. -/
def Obligations.PushStoresAndDropsTheOldest : Prop :=
  ∀ (w : Sample) (s : State), s.Inv → (s.life = .stopped ∨ s.life = .playing) →
    ∃ t, exec (.push w) s = .next t ∧
      t.readStore s.wptr.toNat = w ∧ (∀ a, a ≠ s.wptr.toNat → t.readStore a = s.readStore a) ∧
      t.wptr.toNat = (s.wptr.toNat + 1) % s.cfg.capacity ∧
      (s.occupancy = s.cfg.dropHwm →
        t.occupancy = s.cfg.dropHwm ∧ t.rptr.toNat = (s.rptr.toNat + 1) % s.cfg.capacity ∧
        t.drops.toNat = (s.drops.toNat + 1) % 2 ^ 32 ∧ s.Answered t s.port ⟨.ok, 1, 1, []⟩) ∧
      (s.occupancy < s.cfg.dropHwm →
        t.occupancy = s.occupancy + 1 ∧ t.rptr = s.rptr ∧ t.drops = s.drops ∧
        s.Answered t s.port ⟨.ok, 1, 0, []⟩) ∧
      t.block =
        { s.block with wptr := t.wptr, rptr := t.rptr, drops := t.drops, store := t.store } ∧
      t.sinkCalls = s.sinkCalls

/-- The ring is a bounded queue that drops its oldest sample (R160, R161, R74): a PUSH appends its word
to the unread samples, and at `DROP_HWM` removes exactly the oldest one. -/
def Obligations.PushRefinesADropOldestQueue : Prop :=
  ∀ (w : Sample) (s : State), s.Inv → (s.life = .stopped ∨ s.life = .playing) →
    ∃ t, exec (.push w) s = .next t ∧ t.live = (s.live ++ [w]).drop (s.live.length + 1 - s.cfg.dropHwm)

/-- POP_BLOCK's claim (R165): it takes the snapshot of `RPTR` and of how many samples there are to take,
gives no response yet, and changes nothing else. -/
def Obligations.PopClaimTakesTheSnapshot : Prop :=
  ∀ (n : BitVec 32) (s : State), s.Inv → (s.life = .stopped ∨ s.life = .playing) → s.flight = .idle →
    ∃ t, exec (.popBlock n) s = .next t ∧ t.ctK.toNat = min n.toNat s.occupancy ∧
      t = { s with ctActive := true, ctR0 := s.rptr, ctK := t.ctK, ctOut := [], flight := .pop }

/-- POP_BLOCK's copies (R165): each reads one cell of `Store` and changes nothing else. -/
def Obligations.PopCopyReadsOneCell : Prop :=
  ∀ (n : BitVec 32) (s : State), s.flight = .pop → s.ctOut.length < s.ctK.toNat →
    exec (.popBlock n) s = .next
      { s with
        ctOut := s.ctOut ++ [s.readStore ((s.ctR0.toNat + s.ctOut.length) % s.cfg.capacity)] }

/-- POP_BLOCK's commit (R165, R166), after `d` drops by the producer since the claim: the samples copied
are returned, `RPTR` goes to `r0 + max(k, d)`, never backward: the unread samples lose their first
`k - d`, none when `d >= k`. Nothing else changes. -/
def Obligations.PopCommitNeverMovesBackward : Prop :=
  ∀ (n : BitVec 32) (s : State) (d : Nat), s.Inv → s.life ≠ .destroyed → s.flight = .pop →
    s.ctOut.length = s.ctK.toNat → d < s.cfg.capacity →
    (s.ctR0.toNat + d) % s.cfg.capacity = s.rptr.toNat →
    ∃ t, exec (.popBlock n) s = .next t ∧
      t.rptr.toNat = (s.ctR0.toNat + max s.ctK.toNat d) % s.cfg.capacity ∧
      t.live = s.live.drop (s.ctK.toNat - d) ∧ (s.ctK.toNat ≤ d → t.rptr = s.rptr) ∧
      s.Answered t s.port ⟨.ok, s.ctK, 0, s.ctOut⟩ ∧
      t.block = { s.block with ctActive := false, flight := .idle, rptr := t.rptr } ∧
      t.sinkCalls = s.sinkCalls

/-- A DESTROY between claim and commit (R165): the commit answers INERT with the samples copied and
leaves `RPTR` as it is. -/
def Obligations.PopAfterDestroyKeepsRptr : Prop :=
  ∀ (n : BitVec 32) (s : State), s.life = .destroyed → s.flight = .pop →
    s.ctK.toNat ≤ s.ctOut.length →
    ∃ t, exec (.popBlock n) s = .next t ∧ s.Answered t s.port ⟨.inert, s.ctK, 0, s.ctOut⟩ ∧
      t.block = { s.block with ctActive := false, flight := .idle } ∧ t.sinkCalls = s.sinkCalls

/-- A POP_BLOCK with no action of another port inside it (R165, R167, R352): after exactly `k + 2`
actions, where `k` is `n` or the occupancy if that is less, it has returned the `k` oldest unread samples
in order, without padding, and they alone have left the ring. -/
def Obligations.UninterruptedPopTakesTheOldest : Prop :=
  ∀ (n : BitVec 32) (s : State), s.Inv → (s.life = .stopped ∨ s.life = .playing) → s.flight = .idle →
    ∃ t, actions (.popBlock n) (min n.toNat s.occupancy + 2) s = .next t ∧
      s.Answered t s.port
        ⟨.ok, BitVec.ofNat 32 (min n.toNat s.occupancy), 0, s.live.take n.toNat⟩ ∧
      t.live = s.live.drop n.toNat ∧ t.flight = .idle ∧ t.ctActive = false ∧
      t.block =
        { s.block with
          rptr := t.rptr, ctR0 := t.ctR0, ctK := t.ctK, ctOut := t.ctOut } ∧
      t.sinkCalls = s.sinkCalls

/-- OCCUPANCY (R168) answers the number of unread samples on the port that asked and changes nothing. -/
def Obligations.OccupancyCountsUnreadSamples : Prop :=
  ∀ s : State, s.Inv → (s.life = .stopped ∨ s.life = .playing) →
    ∃ t v, exec .occupancy s = .next t ∧ s.Answered t s.port ⟨.ok, 0, v, []⟩ ∧
      v.toNat = s.live.length ∧ t.block = s.block ∧ t.sinkCalls = s.sinkCalls

/-! ### OutputPump and RateAdapter (43_output_pump.md, 42_rate_adapter.md) -/

/-- PUMP's step 0+1 (R220 to R225): the gate and the occupancy are sampled once; with the gate closed the
pending buffer is emptied; step 2 re-offers a pending tail, or pops when the occupancy is above
`PUSH_THRESHOLD`, or does nothing. That the branch is settled in this action is DEDUCED (log 7). No
response yet, and nothing else changes. -/
def Obligations.PumpSamplesTheGateOnce : Prop :=
  ∀ s : State, s.Inv → (s.life = .stopped ∨ s.life = .playing) → s.flight = .idle →
    ∃ t l, exec .pump s = .next t ∧ t.flight = .pump l ∧
      l.fwd = (s.life = .playing && s.enabled) ∧ l.occ.toNat = s.occupancy ∧ l.acc = 0 ∧
      l.tail = false ∧ l.fl = false ∧
      t.pendLen = (if l.fwd then s.pendLen else 0) ∧
      (l.fwd = true → 0 < s.pendLen.toNat → l.point = .offerPending) ∧
      (l.fwd = false ∨ s.pendLen = 0 → s.cfg.pushThreshold < s.occupancy → l.point = .claim) ∧
      (l.fwd = false ∨ s.pendLen = 0 → s.occupancy ≤ s.cfg.pushThreshold → l.point = .queuedDepth) ∧
      t = { s with pendLen := t.pendLen, flight := .pump l }

/-- PUMP's POP_BLOCK (R165, R220, R223, R225) while the block is not destroyed: claim up to B samples,
copy each, commit as R166 says; the block is offered to the sink when the gate was open and discarded
when it was closed. No response, and nothing else changes. -/
def Obligations.PumpPopsABlock : Prop :=
  ∀ (s : State) (l : PumpFlight), s.Inv → s.life ≠ .destroyed → s.flight = .pump l →
    (l.point = .claim → ∃ t, exec .pump s = .next t ∧
      t.ctK.toNat = min s.cfg.block s.occupancy ∧
      t = { s with
        ctActive := true, ctR0 := s.rptr, ctK := t.ctK, ctOut := [],
        flight := .pump { l with point := .popping } }) ∧
    (l.point = .popping → s.ctOut.length < s.ctK.toNat → exec .pump s = .next
      { s with
        ctOut := s.ctOut ++ [s.readStore ((s.ctR0.toNat + s.ctOut.length) % s.cfg.capacity)] }) ∧
    (l.point = .popping → s.ctOut.length = s.ctK.toNat → ∃ t, exec .pump s = .next t ∧
      t.live = s.live.drop (s.ctK.toNat - modSub s.rptr.toNat s.ctR0.toNat s.cfg.capacity) ∧
      t = { s with
        ctActive := false, rptr := t.rptr,
        flight := .pump
          { l with point := if l.fwd then .offerBlock s.ctOut else .queuedDepth } })

/-- PUMP's `Enqueue` (R224, R225, R233): the sink takes a prefix of what is offered, the rest is pending
in order, so that no sample is lost or repeated; the count and the partial mark are kept for the
response; a listed answer of the sink is followed up to the number offered. Nothing else changes. -/
def Obligations.EnqueueLosesAndRepeatsNothing : Prop :=
  ∀ (s : State) (l : PumpFlight) (xs : List Sample), s.Inv → s.life ≠ .destroyed →
    s.flight = .pump l → (l.point = .offerBlock xs ∨ (l.point = .offerPending ∧ xs = s.pending)) →
    ∃ t a, exec .pump s = .next t ∧ a ≤ xs.length ∧
      t.sinkCalls = s.sinkCalls ++ [.enqueue xs a] ∧ xs.take a ++ t.pending = xs ∧
      t.flight = .pump
        { l with
          acc := BitVec.ofNat 32 a, tail := decide (a < xs.length), point := .queuedDepth } ∧
      (∀ v rest, s.sinkAccepts = v :: rest → a = min v xs.length ∧ t.sinkAccepts = rest) ∧
      t.block = { s.block with pend := t.pend, pendLen := t.pendLen, flight := t.flight } ∧
      (∀ i, xs.length - a ≤ i → t.readPend i = s.readPend i) ∧
      t.outC = s.outC ∧ t.inC = s.inC

/-- PUMP's step 3 (R226), whatever the gate is: the sink is asked for its depth, and flushed when that is
above `SINK_FLUSH_DEPTH`. Nothing else changes. -/
def Obligations.PumpFlushesADeepSink : Prop :=
  ∀ (s : State) (l : PumpFlight), s.life ≠ .destroyed → s.flight = .pump l →
    (l.point = .queuedDepth → ∃ t q, exec .pump s = .next t ∧
      t.sinkCalls = s.sinkCalls ++ [.queuedDepth q] ∧
      (∀ v rest, s.sinkDepths = v :: rest → q = v ∧ t.sinkDepths = rest) ∧
      t.block =
        { s.block with
          flight := .pump
            { l with
              point := if s.cfg.sinkFlushDepth.toNat < q.toNat then .flush q else .adjust q } } ∧
      t.outC = s.outC ∧ t.inC = s.inC) ∧
    (∀ q, l.point = .flush q → exec .pump s = .next
      { s with
        sinkCalls := s.sinkCalls ++ [.flush]
        flight := .pump { l with fl := true, point := .adjust q } })

/-- PUMP's step 4 and response (R200 to R204, R227, R228): `CPS` goes one `CPS_STEP` down below
`RATE_LWM`, one up above `RATE_HWM`, stays between them, and never leaves `[CPS_MIN, CPS_MAX]`; the
reading is the ring's or the sink's by `RATE_SOURCE`; the response carries the accepted count, `occ`, the
gate and the flush. Nothing else changes. -/
def Obligations.PumpAdjustsTheRateAndResponds : Prop :=
  ∀ (s : State) (l : PumpFlight) (q : BitVec 32) (v : Nat), s.Inv → s.life ≠ .destroyed →
    s.flight = .pump l → l.point = .adjust q →
    v = (match s.cfg.rateSource with | .ring => l.occ.toNat | .sink => q.toNat) →
    ∃ t data, exec .pump s = .next t ∧
      (v < s.cfg.rateLwm → t.cps.toNat = max (s.cps.toNat - s.cfg.cpsStep) s.cfg.cpsMin) ∧
      (s.cfg.rateHwm < v → t.cps.toNat = min (s.cps.toNat + s.cfg.cpsStep) s.cfg.cpsMax) ∧
      (s.cfg.rateLwm ≤ v → v ≤ s.cfg.rateHwm → t.cps = s.cps) ∧
      s.Answered t s.port ⟨if l.tail then .sinkPartial else .ok, l.acc, data, []⟩ ∧
      data.toNat = l.occ.toNat + (if l.fwd then 2 ^ 32 else 0) + (if l.fl then 2 ^ 33 else 0) ∧
      t.block = { s.block with cps := t.cps, flight := .idle } ∧ t.sinkCalls = s.sinkCalls

/-- A PUMP with the gate open, nothing pending, the ring above `PUSH_THRESHOLD` and no action of another
port inside it (R220, R225 to R228): after its last action it has moved the `B` oldest samples, or all
there were, out of the ring; the sink took a prefix of them and the rest is pending in order; the sink
was asked for its depth, and flushed when that is above `SINK_FLUSH_DEPTH`; the rate took one step; and
the one response tells all of it. `k`, `a`, `v` are the samples popped, the samples taken, the reading. -/
def Obligations.UninterruptedPumpMovesABlock : Prop :=
  ∀ (s : State) (k a v : Nat) (as : List Nat) (q : BitVec 32) (qs : List (BitVec 32)), s.Inv →
    s.life = .playing → s.enabled = true → s.flight = .idle → s.pendLen = 0 →
    s.cfg.pushThreshold < s.occupancy → k = min s.cfg.block s.occupancy → a ≤ k →
    s.sinkAccepts = a :: as → s.sinkDepths = q :: qs →
    v = (match s.cfg.rateSource with | .ring => s.occupancy | .sink => q.toNat) →
    ∃ t data,
      actions .pump (k + 6 + (if s.cfg.sinkFlushDepth.toNat < q.toNat then 1 else 0)) s = .next t ∧
      t.live = s.live.drop k ∧ t.pending = (s.live.take k).drop a ∧
      t.sinkCalls = s.sinkCalls ++ [.enqueue (s.live.take k) a, .queuedDepth q] ++
        (if s.cfg.sinkFlushDepth.toNat < q.toNat then [.flush] else []) ∧
      (v < s.cfg.rateLwm → t.cps.toNat = max (s.cps.toNat - s.cfg.cpsStep) s.cfg.cpsMin) ∧
      (s.cfg.rateHwm < v → t.cps.toNat = min (s.cps.toNat + s.cfg.cpsStep) s.cfg.cpsMax) ∧
      (s.cfg.rateLwm ≤ v → v ≤ s.cfg.rateHwm → t.cps = s.cps) ∧
      s.Answered t s.port ⟨if a < k then .sinkPartial else .ok, BitVec.ofNat 32 a, data, []⟩ ∧
      data.toNat =
        s.occupancy + 2 ^ 32 + (if s.cfg.sinkFlushDepth.toNat < q.toNat then 2 ^ 33 else 0) ∧
      t.sinkAccepts = as ∧ t.sinkDepths = qs ∧
      t.block =
        { s.block with
          rptr := t.rptr, cps := t.cps, pend := t.pend, pendLen := t.pendLen, ctR0 := t.ctR0,
          ctK := t.ctK, ctOut := t.ctOut }

/-- R229 for PUMP: a PUMP in flight that finds the block destroyed ends INERT with the count accepted so far, at
every point that checks `LIFE`; a copy goes on. The sink is not called and no register changes. -/
def Obligations.PumpEndsInertAfterDestroy : Prop :=
  ∀ (s : State) (l : PumpFlight), s.life = .destroyed → s.flight = .pump l →
    (l.point = .popping → s.ctOut.length < s.ctK.toNat → exec .pump s = .next
      { s with
        ctOut := s.ctOut ++ [s.readStore ((s.ctR0.toNat + s.ctOut.length) % s.cfg.capacity)] }) ∧
    (¬ (l.point = .popping ∧ s.ctOut.length < s.ctK.toNat) → ∃ t, exec .pump s = .next t ∧
      s.Answered t s.port ⟨.inert, l.acc, 0, []⟩ ∧
      t.block =
        { s.block with
          flight := .idle, ctActive := if l.point = .popping then false else s.ctActive } ∧
      t.sinkCalls = s.sinkCalls)

/-- R232, R221: the sink's `Enqueue` is called only by a PUMP whose first action found `LIFE = PLAYING`
and `ENABLED = 1`; no later action of that PUMP changes what it found. -/
def Obligations.EnqueueOnlyWithTheGateOpen : Prop :=
  ∀ s t : State, s.Inv → step s = .next t →
    (∀ xs a, t.sinkCalls = s.sinkCalls ++ [.enqueue xs a] → ∃ l, s.flight = .pump l ∧ l.fwd = true) ∧
    (∀ l l', s.flight = .pump l → t.flight = .pump l' → l'.fwd = l.fwd) ∧
    (∀ l', s.flight = .idle → t.flight = .pump l' → l'.fwd = (s.life = .playing && s.enabled))

/-! ### PlaybackController, configuration and diagnostics (44_playback_control.md) -/

/-- INITIALIZE in UNINIT with the sink answering ok: every register at its power-on value, `LIFE` STOPPED
(R251, R331); that the storage arrays keep what they hold is the model's choice (log 18). -/
def Obligations.InitializeSetsTheDefaults : Prop :=
  ∀ (s : State) (rest : List Bool), s.life = .uninit → s.sinkOpens = true :: rest → s.cfg.Legal →
    ∃ t, exec .initializeBlock s = .next t ∧ s.Answered t s.port ⟨.ok, 0, 0, []⟩ ∧
      t.sinkCalls = s.sinkCalls ++ [.openSink s.cfg.sampleRate 1 .binary32 true] ∧
      t.sinkOpens = rest ∧ t.cps.toNat = s.cfg.cpsNominal ∧
      t.block =
        { s.block with
          high := false, elapsed := 0, highacc := 0, wptr := 0, rptr := 0, drops := 0, pendLen := 0,
          cps := t.cps, enabled := s.cfg.enabledDefault, life := .stopped }

/-- INITIALIZE with the sink's `Open` failing changes nothing and may be issued again (R251, R334); once
initialized or destroyed it is INERT and makes no call. -/
def Obligations.InitializeFailsWithoutAnEffect : Prop :=
  (∀ (s : State) (rest : List Bool), s.life = .uninit → s.sinkOpens = false :: rest →
    ∃ t, exec .initializeBlock s = .next t ∧ s.Answered t s.port ⟨.sinkOpenFail, 0, 0, []⟩ ∧
      t.sinkCalls = s.sinkCalls ++ [.openSink s.cfg.sampleRate 1 .binary32 false] ∧
      t.sinkOpens = rest ∧ t.block = s.block) ∧
  (∀ s : State, s.life ≠ .uninit →
    ∃ t, exec .initializeBlock s = .next t ∧ s.Answered t s.port ⟨.inert, 0, 0, []⟩ ∧
      t.sinkCalls = s.sinkCalls ∧ t.block = s.block)

/-- BEGIN_PLAY and STOP_PLAY in STOPPED and in PLAYING set `LIFE` and nothing else (R252, R253). -/
def Obligations.BeginAndStopPlaySetLife : Prop :=
  ∀ s : State, (s.life = .stopped ∨ s.life = .playing) →
    (∃ t, exec .beginPlay s = .next t ∧ s.Answered t s.port ⟨.ok, 0, 0, []⟩ ∧
      t.block = { s.block with life := .playing } ∧ t.sinkCalls = s.sinkCalls) ∧
    (∃ t, exec .stopPlay s = .next t ∧ s.Answered t s.port ⟨.ok, 0, 0, []⟩ ∧
      t.block = { s.block with life := .stopped } ∧ t.sinkCalls = s.sinkCalls)

/-- ENABLE and DISABLE before DESTROYED set `ENABLED` and nothing else (R254, R255). -/
def Obligations.EnableAndDisableSetTheMute : Prop :=
  ∀ s : State, s.life ≠ .destroyed →
    (∃ t, exec .enable s = .next t ∧ s.Answered t s.port ⟨.ok, 0, 0, []⟩ ∧
      t.block = { s.block with enabled := true } ∧ t.sinkCalls = s.sinkCalls) ∧
    (∃ t, exec .disable s = .next t ∧ s.Answered t s.port ⟨.ok, 0, 0, []⟩ ∧
      t.block = { s.block with enabled := false } ∧ t.sinkCalls = s.sinkCalls)

/-- IS_PLAYING answers in every state whether `LIFE = PLAYING`, whatever `ENABLED` is (R256). -/
def Obligations.IsPlayingIgnoresTheMute : Prop :=
  ∀ s : State, ∃ t, exec .isPlaying s = .next t ∧
    s.Answered t s.port ⟨.ok, 0, if s.life = .playing then 1 else 0, []⟩ ∧
    t.block = s.block ∧ t.sinkCalls = s.sinkCalls

/-- EXPORT answers the record of R258, `CPS` in bits 31:0 and `ENABLED` in bit 32, and changes nothing
(R259). -/
def Obligations.ExportAnswersTheRecord : Prop :=
  ∀ s : State, s.life ≠ .destroyed → ∃ t x, exec .exportRecord s = .next t ∧
    s.Answered t s.port ⟨.ok, 0, x, []⟩ ∧
    x.toNat = s.cps.toNat + (if s.enabled then 2 ^ 32 else 0) ∧
    t.block = s.block ∧ t.sinkCalls = s.sinkCalls

/-- IMPORT loads each field that is present, `cps` clamped, and gives an absent one its default, not its
current value (R260, R202); it answers the new record and changes nothing else. -/
def Obligations.ImportLoadsFieldByField : Prop :=
  ∀ (ev en cv : Bool) (imm : BitVec 32) (s : State), s.cfg.Legal → s.life ≠ .destroyed →
    ∃ t x, exec (.importRecord ev en cv imm) s = .next t ∧
      t.enabled = (if ev then en else s.cfg.enabledDefault) ∧
      t.cps.toNat = (if cv then min (max imm.toNat s.cfg.cpsMin) s.cfg.cpsMax else s.cfg.cpsNominal) ∧
      s.Answered t s.port ⟨.ok, 0, x, []⟩ ∧
      x.toNat = t.cps.toNat + (if t.enabled then 2 ^ 32 else 0) ∧
      t.block = { s.block with enabled := t.enabled, cps := t.cps } ∧ t.sinkCalls = s.sinkCalls

/-- R261: the record an EXPORT gives, imported into another initialized block with the same
configuration, sets the same `ENABLED` and `CPS`, and a following EXPORT gives it again. -/
def Obligations.ExportThenImportRoundTrips : Prop :=
  ∀ (a b : State), a.Inv → b.cfg = a.cfg → a.life ≠ .destroyed → b.life ≠ .destroyed →
    ∃ a' x b' b'' , exec .exportRecord a = .next a' ∧ a.Answered a' a.port ⟨.ok, 0, x, []⟩ ∧
      exec (.importRecord true (x.getLsbD 32) true (x.extractLsb' 0 32)) b = .next b' ∧
      b'.enabled = a.enabled ∧ b'.cps = a.cps ∧ b'.enabled = x.getLsbD 32 ∧
      b'.cps = x.extractLsb' 0 32 ∧
      exec .exportRecord b' = .next b'' ∧ b'.Answered b'' b'.port ⟨.ok, 0, x, []⟩

/-- R343: an IMPORT before INITIALIZE is lost: after a successful INITIALIZE, `ENABLED` and `CPS` are the
defaults. -/
def Obligations.ImportBeforeInitializeIsLost : Prop :=
  ∀ (ev en cv : Bool) (imm : BitVec 32) (s : State) (rest : List Bool), s.life = .uninit →
    s.sinkOpens = true :: rest → s.cfg.Legal →
    ∃ t u, exec (.importRecord ev en cv imm) s = .next t ∧ exec .initializeBlock t = .next u ∧
      u.life = .stopped ∧ u.enabled = s.cfg.enabledDefault ∧ u.cps.toNat = s.cfg.cpsNominal

/-- DESTROY closes an open sink, and no other, and sets `LIFE` and nothing else (R257). -/
def Obligations.DestroyClosesAnOpenSink : Prop :=
  ∀ s : State, s.life ≠ .destroyed → ∃ t, exec .destroy s = .next t ∧
    s.Answered t s.port ⟨.ok, 0, 0, []⟩ ∧
    t.sinkCalls = s.sinkCalls ++ (if s.life = .uninit then [] else [.close]) ∧
    t.block = { s.block with life := .destroyed }

/-- READ_REG (R262, R33, R34) in every lifecycle state: each assigned number answers its register,
zero-extended, STATUS packed from the flags; every other number is ILLEGAL; nothing changes. That the
two parameters R8 does not bound fit 64 bits is DEDUCED (log 3). -/
def Obligations.ReadRegAnswersTheRegister : Prop :=
  ∀ (r : BitVec 32) (s : State), s.Inv →
    ∃ t, exec (.readReg r) s = .next t ∧ t.block = s.block ∧ t.sinkCalls = s.sinkCalls ∧
      ((8 ≤ r.toNat ∧ r.toNat < 0x10) ∨ 0x1F ≤ r.toNat →
        s.Answered t s.port ⟨.illegal, 0, 0, []⟩) ∧
      (r.toNat < 8 ∨ (0x10 ≤ r.toNat ∧ r.toNat < 0x1F) →
        ∃ v, s.Answered t s.port ⟨.ok, 0, v, []⟩ ∧
          (r = 0x00 → v.toNat =
            (match s.life with | .uninit => 0 | .stopped => 1 | .playing => 2 | .destroyed => 3)
              + (if s.enabled then 4 else 0) + (if s.high then 8 else 0)) ∧
          (r = 0x01 → v.toNat = s.cps.toNat) ∧
          (r = 0x02 → v = s.elapsed) ∧
          (r = 0x03 → v = s.highacc) ∧
          (r = 0x04 → v.toNat = s.wptr.toNat) ∧
          (r = 0x05 → v.toNat = s.rptr.toNat) ∧
          (r = 0x06 → v.toNat = s.drops.toNat) ∧
          (r = 0x07 → v.toNat = s.pendLen.toNat) ∧
          (r = 0x10 → v.toNat = s.cfg.fracBits) ∧
          (r = 0x11 → v.toNat = s.cfg.capacity) ∧
          (r = 0x12 → v.toNat = s.cfg.block) ∧
          (r = 0x13 → v.toNat = s.cfg.dropHwm) ∧
          (r = 0x14 → v.toNat = s.cfg.pushThreshold) ∧
          (r = 0x15 → v = s.cfg.sinkFlushDepth) ∧
          (r = 0x16 → v.toNat = s.cfg.cpsNominal) ∧
          (r = 0x17 → v.toNat = s.cfg.cpsMin) ∧
          (r = 0x18 → v.toNat = s.cfg.cpsMax) ∧
          (r = 0x19 → v.toNat = s.cfg.cpsStep) ∧
          (r = 0x1A → v.toNat = s.cfg.rateLwm) ∧
          (r = 0x1B → v.toNat = s.cfg.rateHwm) ∧
          (r = 0x1C → v = (match s.cfg.rateSource with | .ring => 0 | .sink => 1)) ∧
          (r = 0x1D → v = s.cfg.sampleRate) ∧
          (r = 0x1E → v = (if s.cfg.enabledDefault then 1 else 0)))

/-- A sample handed to the sink as bytes goes least-significant byte first (R70); that the bytes of the
samples a call takes follow each other in order is the model's view of a call (log 17). -/
def Obligations.SamplesGoOutLittleEndian : Prop :=
  (∀ x : Sample, ∃ b0 b1 b2 b3 : BitVec 8, sampleBytes x = [b0, b1, b2, b3] ∧
    x.toNat = b0.toNat + 2 ^ 8 * b1.toNat + 2 ^ 16 * b2.toNat + 2 ^ 24 * b3.toNat) ∧
  ∀ (xs : List Sample) (a : Nat),
    (SinkCall.enqueue xs a).takenBytes = (xs.take a).flatMap sampleBytes
end

