-- ==== Sys2Proof/Laws/Encoding.lean ====
section
/-! SUPPORT. The four fields of a command word: packing and reading them back, and masks field by field. -/

namespace Sys2Proof

theorem packWord_getLsbD (o : BitVec 8) (r : BitVec 20) (f : BitVec 4) (i : BitVec 32) (k : Nat) :
    (packWord o r f i).getLsbD k =
      if k < 32 then i.getLsbD k
      else if k < 36 then f.getLsbD (k - 32)
      else if k < 56 then r.getLsbD (k - 36)
      else o.getLsbD (k - 56) := by
  show ((o ++ r ++ f ++ i : BitVec (8 + 20 + 4 + 32))).getLsbD k = _
  rw [BitVec.getLsbD_append, BitVec.getLsbD_append, BitVec.getLsbD_append]
  split
  · rfl
  · have h1 : k - 32 < 4 ↔ k < 36 := by omega
    have h2 : k - 36 < 20 ↔ k < 56 := by omega
    simp only [h1, h2, Nat.sub_sub, Nat.reduceAdd]

theorem opcField_packWord (o : BitVec 8) (r : BitVec 20) (f : BitVec 4) (i : BitVec 32) :
    opcField (packWord o r f i) = o := by
  apply BitVec.eq_of_getLsbD_eq
  intro k hk
  rw [opcField, BitVec.getLsbD_extractLsb', packWord_getLsbD, if_neg (by omega), if_neg (by omega),
    if_neg (by omega), Nat.add_sub_cancel_left]
  simp [hk]

theorem rsvField_packWord (o : BitVec 8) (r : BitVec 20) (f : BitVec 4) (i : BitVec 32) :
    rsvField (packWord o r f i) = r := by
  apply BitVec.eq_of_getLsbD_eq
  intro k hk
  rw [rsvField, BitVec.getLsbD_extractLsb', packWord_getLsbD, if_neg (by omega), if_neg (by omega),
    if_pos (by omega), Nat.add_sub_cancel_left]
  simp [hk]

theorem flgField_packWord (o : BitVec 8) (r : BitVec 20) (f : BitVec 4) (i : BitVec 32) :
    flgField (packWord o r f i) = f := by
  apply BitVec.eq_of_getLsbD_eq
  intro k hk
  rw [flgField, BitVec.getLsbD_extractLsb', packWord_getLsbD, if_neg (by omega), if_pos (by omega),
    Nat.add_sub_cancel_left]
  simp [hk]

theorem immField_packWord (o : BitVec 8) (r : BitVec 20) (f : BitVec 4) (i : BitVec 32) :
    immField (packWord o r f i) = i := by
  apply BitVec.eq_of_getLsbD_eq
  intro k hk
  rw [immField, BitVec.getLsbD_extractLsb', packWord_getLsbD, if_pos (by omega), Nat.zero_add]
  simp [hk]

/-- A word is its four fields packed (R100). -/
theorem packWord_fields (w : CommandWord) :
    packWord (opcField w) (rsvField w) (flgField w) (immField w) = w := by
  apply BitVec.eq_of_getLsbD_eq
  intro k hk
  rw [packWord_getLsbD]
  simp only [opcField, rsvField, flgField, immField, BitVec.getLsbD_extractLsb']
  split
  · simp [*]
  · split
    · rw [show 32 + (k - 32) = k by omega]
      simp
      omega
    · split
      · rw [show 36 + (k - 36) = k by omega]
        simp
        omega
      · rw [show 56 + (k - 56) = k by omega]
        simp
        omega

theorem packWord_inj {o o' : BitVec 8} {r r' : BitVec 20} {f f' : BitVec 4} {i i' : BitVec 32} :
    packWord o r f i = packWord o' r' f' i' ↔ o = o' ∧ r = r' ∧ f = f' ∧ i = i' := by
  constructor
  · intro h
    refine ⟨?_, ?_, ?_, ?_⟩
    · rw [← opcField_packWord o r f i, h, opcField_packWord]
    · rw [← rsvField_packWord o r f i, h, rsvField_packWord]
    · rw [← flgField_packWord o r f i, h, flgField_packWord]
    · rw [← immField_packWord o r f i, h, immField_packWord]
  · rintro ⟨rfl, rfl, rfl, rfl⟩
    rfl

/-- Masking a word is masking its fields. -/
theorem packWord_and (o o' : BitVec 8) (r r' : BitVec 20) (f f' : BitVec 4) (i i' : BitVec 32) :
    packWord o r f i &&& packWord o' r' f' i' =
      packWord (o &&& o') (r &&& r') (f &&& f') (i &&& i') := by
  apply BitVec.eq_of_getLsbD_eq
  intro k hk
  rw [BitVec.getLsbD_and, packWord_getLsbD, packWord_getLsbD, packWord_getLsbD]
  repeat' split
  all_goals simp [BitVec.getLsbD_and]

end Sys2Proof
end

