-- ==== Sys2Proof/Laws/State.lean ====
section
/-! SUPPORT. The small lemmas of the state: one per field per update, each true by rfl. -/

namespace Sys2Proof.Machine

@[simp] theorem State.respondOk_eq (count : BitVec 32) (data : BitVec 64) (s : State) :
    s.respondOk count data = s.respond .ok count data [] := rfl

@[simp] theorem State.respondInert_eq (s : State) : s.respondInert = s.respond .inert 0 0 [] := rfl

@[simp] theorem State.respondIllegal_eq (s : State) : s.respondIllegal = s.respond .illegal 0 0 [] := rfl

/-! ### respond -/

@[simp] theorem State.respond_cfg (st : Status) (count : BitVec 32) (data : BitVec 64) (xs : List Sample) (s : State) : (s.respond st count data xs).cfg = 
    s.cfg := rfl
@[simp] theorem State.respond_life (st : Status) (count : BitVec 32) (data : BitVec 64) (xs : List Sample) (s : State) : (s.respond st count data xs).life = 
    s.life := rfl
@[simp] theorem State.respond_enabled (st : Status) (count : BitVec 32) (data : BitVec 64) (xs : List Sample) (s : State) : (s.respond st count data xs).enabled = 
    s.enabled := rfl
@[simp] theorem State.respond_high (st : Status) (count : BitVec 32) (data : BitVec 64) (xs : List Sample) (s : State) : (s.respond st count data xs).high = 
    s.high := rfl
@[simp] theorem State.respond_cps (st : Status) (count : BitVec 32) (data : BitVec 64) (xs : List Sample) (s : State) : (s.respond st count data xs).cps = 
    s.cps := rfl
@[simp] theorem State.respond_elapsed (st : Status) (count : BitVec 32) (data : BitVec 64) (xs : List Sample) (s : State) : (s.respond st count data xs).elapsed = 
    s.elapsed := rfl
@[simp] theorem State.respond_highacc (st : Status) (count : BitVec 32) (data : BitVec 64) (xs : List Sample) (s : State) : (s.respond st count data xs).highacc = 
    s.highacc := rfl
@[simp] theorem State.respond_wptr (st : Status) (count : BitVec 32) (data : BitVec 64) (xs : List Sample) (s : State) : (s.respond st count data xs).wptr = 
    s.wptr := rfl
@[simp] theorem State.respond_rptr (st : Status) (count : BitVec 32) (data : BitVec 64) (xs : List Sample) (s : State) : (s.respond st count data xs).rptr = 
    s.rptr := rfl
@[simp] theorem State.respond_drops (st : Status) (count : BitVec 32) (data : BitVec 64) (xs : List Sample) (s : State) : (s.respond st count data xs).drops = 
    s.drops := rfl
@[simp] theorem State.respond_pendLen (st : Status) (count : BitVec 32) (data : BitVec 64) (xs : List Sample) (s : State) : (s.respond st count data xs).pendLen = 
    s.pendLen := rfl
@[simp] theorem State.respond_store (st : Status) (count : BitVec 32) (data : BitVec 64) (xs : List Sample) (s : State) : (s.respond st count data xs).store = 
    s.store := rfl
@[simp] theorem State.respond_pend (st : Status) (count : BitVec 32) (data : BitVec 64) (xs : List Sample) (s : State) : (s.respond st count data xs).pend = 
    s.pend := rfl
@[simp] theorem State.respond_ctActive (st : Status) (count : BitVec 32) (data : BitVec 64) (xs : List Sample) (s : State) : (s.respond st count data xs).ctActive = 
    s.ctActive := rfl
@[simp] theorem State.respond_ctR0 (st : Status) (count : BitVec 32) (data : BitVec 64) (xs : List Sample) (s : State) : (s.respond st count data xs).ctR0 = 
    s.ctR0 := rfl
@[simp] theorem State.respond_ctK (st : Status) (count : BitVec 32) (data : BitVec 64) (xs : List Sample) (s : State) : (s.respond st count data xs).ctK = 
    s.ctK := rfl
@[simp] theorem State.respond_ctOut (st : Status) (count : BitVec 32) (data : BitVec 64) (xs : List Sample) (s : State) : (s.respond st count data xs).ctOut = 
    s.ctOut := rfl
@[simp] theorem State.respond_flight (st : Status) (count : BitVec 32) (data : BitVec 64) (xs : List Sample) (s : State) : (s.respond st count data xs).flight = 
    s.flight := rfl
@[simp] theorem State.respond_port (st : Status) (count : BitVec 32) (data : BitVec 64) (xs : List Sample) (s : State) : (s.respond st count data xs).port = 
    s.port := rfl
@[simp] theorem State.respond_inP (st : Status) (count : BitVec 32) (data : BitVec 64) (xs : List Sample) (s : State) : (s.respond st count data xs).inP = 
    (if s.port = .producer then s.inP.tail else s.inP) := rfl
@[simp] theorem State.respond_inC (st : Status) (count : BitVec 32) (data : BitVec 64) (xs : List Sample) (s : State) : (s.respond st count data xs).inC = 
    (if s.port = .consumer then s.inC.tail else s.inC) := rfl
@[simp] theorem State.respond_inH (st : Status) (count : BitVec 32) (data : BitVec 64) (xs : List Sample) (s : State) : (s.respond st count data xs).inH = 
    (if s.port = .host then s.inH.tail else s.inH) := rfl
@[simp] theorem State.respond_outP (st : Status) (count : BitVec 32) (data : BitVec 64) (xs : List Sample) (s : State) : (s.respond st count data xs).outP = 
    (if s.port = .producer then s.outP ++ [⟨st, count, data, xs⟩] else s.outP) := rfl
@[simp] theorem State.respond_outC (st : Status) (count : BitVec 32) (data : BitVec 64) (xs : List Sample) (s : State) : (s.respond st count data xs).outC = 
    (if s.port = .consumer then s.outC ++ [⟨st, count, data, xs⟩] else s.outC) := rfl
@[simp] theorem State.respond_outH (st : Status) (count : BitVec 32) (data : BitVec 64) (xs : List Sample) (s : State) : (s.respond st count data xs).outH = 
    (if s.port = .host then s.outH ++ [⟨st, count, data, xs⟩] else s.outH) := rfl
@[simp] theorem State.respond_schedule (st : Status) (count : BitVec 32) (data : BitVec 64) (xs : List Sample) (s : State) : (s.respond st count data xs).schedule = 
    s.schedule := rfl
@[simp] theorem State.respond_turns (st : Status) (count : BitVec 32) (data : BitVec 64) (xs : List Sample) (s : State) : (s.respond st count data xs).turns = 
    s.turns := rfl
@[simp] theorem State.respond_sinkOpens (st : Status) (count : BitVec 32) (data : BitVec 64) (xs : List Sample) (s : State) : (s.respond st count data xs).sinkOpens = 
    s.sinkOpens := rfl
@[simp] theorem State.respond_sinkAccepts (st : Status) (count : BitVec 32) (data : BitVec 64) (xs : List Sample) (s : State) : (s.respond st count data xs).sinkAccepts = 
    s.sinkAccepts := rfl
@[simp] theorem State.respond_sinkDepths (st : Status) (count : BitVec 32) (data : BitVec 64) (xs : List Sample) (s : State) : (s.respond st count data xs).sinkDepths = 
    s.sinkDepths := rfl
@[simp] theorem State.respond_draws (st : Status) (count : BitVec 32) (data : BitVec 64) (xs : List Sample) (s : State) : (s.respond st count data xs).draws = 
    s.draws := rfl
@[simp] theorem State.respond_sinkCalls (st : Status) (count : BitVec 32) (data : BitVec 64) (xs : List Sample) (s : State) : (s.respond st count data xs).sinkCalls = 
    s.sinkCalls := rfl

/-! ### pushSample -/

@[simp] theorem State.pushSample_cfg (x : Sample) (s : State) : (s.pushSample x).cfg = s.cfg := rfl
@[simp] theorem State.pushSample_life (x : Sample) (s : State) : (s.pushSample x).life = s.life := rfl
@[simp] theorem State.pushSample_enabled (x : Sample) (s : State) : (s.pushSample x).enabled = s.enabled := rfl
@[simp] theorem State.pushSample_high (x : Sample) (s : State) : (s.pushSample x).high = s.high := rfl
@[simp] theorem State.pushSample_cps (x : Sample) (s : State) : (s.pushSample x).cps = s.cps := rfl
@[simp] theorem State.pushSample_elapsed (x : Sample) (s : State) : (s.pushSample x).elapsed = s.elapsed := rfl
@[simp] theorem State.pushSample_highacc (x : Sample) (s : State) : (s.pushSample x).highacc = s.highacc := rfl
@[simp] theorem State.pushSample_wptr (x : Sample) (s : State) : (s.pushSample x).wptr = 
    BitVec.ofNat 32 ((s.wptr.toNat + 1) % s.cfg.capacity) := rfl
@[simp] theorem State.pushSample_rptr (x : Sample) (s : State) : (s.pushSample x).rptr = 
    (if s.dropsOnPush = 0 then s.rptr else BitVec.ofNat 32 ((s.rptr.toNat + s.dropsOnPush) % s.cfg.capacity)) := rfl
@[simp] theorem State.pushSample_drops (x : Sample) (s : State) : (s.pushSample x).drops = 
    s.drops + BitVec.ofNat 32 s.dropsOnPush := rfl
@[simp] theorem State.pushSample_pendLen (x : Sample) (s : State) : (s.pushSample x).pendLen = s.pendLen := rfl
@[simp] theorem State.pushSample_store (x : Sample) (s : State) : (s.pushSample x).store = 
    s.store.write s.wptr.toNat x := rfl
@[simp] theorem State.pushSample_pend (x : Sample) (s : State) : (s.pushSample x).pend = s.pend := rfl
@[simp] theorem State.pushSample_ctActive (x : Sample) (s : State) : (s.pushSample x).ctActive = 
    s.ctActive := rfl
@[simp] theorem State.pushSample_ctR0 (x : Sample) (s : State) : (s.pushSample x).ctR0 = s.ctR0 := rfl
@[simp] theorem State.pushSample_ctK (x : Sample) (s : State) : (s.pushSample x).ctK = s.ctK := rfl
@[simp] theorem State.pushSample_ctOut (x : Sample) (s : State) : (s.pushSample x).ctOut = s.ctOut := rfl
@[simp] theorem State.pushSample_flight (x : Sample) (s : State) : (s.pushSample x).flight = s.flight := rfl
@[simp] theorem State.pushSample_port (x : Sample) (s : State) : (s.pushSample x).port = s.port := rfl
@[simp] theorem State.pushSample_inP (x : Sample) (s : State) : (s.pushSample x).inP = s.inP := rfl
@[simp] theorem State.pushSample_inC (x : Sample) (s : State) : (s.pushSample x).inC = s.inC := rfl
@[simp] theorem State.pushSample_inH (x : Sample) (s : State) : (s.pushSample x).inH = s.inH := rfl
@[simp] theorem State.pushSample_outP (x : Sample) (s : State) : (s.pushSample x).outP = s.outP := rfl
@[simp] theorem State.pushSample_outC (x : Sample) (s : State) : (s.pushSample x).outC = s.outC := rfl
@[simp] theorem State.pushSample_outH (x : Sample) (s : State) : (s.pushSample x).outH = s.outH := rfl
@[simp] theorem State.pushSample_schedule (x : Sample) (s : State) : (s.pushSample x).schedule = 
    s.schedule := rfl
@[simp] theorem State.pushSample_turns (x : Sample) (s : State) : (s.pushSample x).turns = s.turns := rfl
@[simp] theorem State.pushSample_sinkOpens (x : Sample) (s : State) : (s.pushSample x).sinkOpens = 
    s.sinkOpens := rfl
@[simp] theorem State.pushSample_sinkAccepts (x : Sample) (s : State) : (s.pushSample x).sinkAccepts = 
    s.sinkAccepts := rfl
@[simp] theorem State.pushSample_sinkDepths (x : Sample) (s : State) : (s.pushSample x).sinkDepths = 
    s.sinkDepths := rfl
@[simp] theorem State.pushSample_draws (x : Sample) (s : State) : (s.pushSample x).draws = s.draws := rfl
@[simp] theorem State.pushSample_sinkCalls (x : Sample) (s : State) : (s.pushSample x).sinkCalls = 
    s.sinkCalls := rfl

/-! ### popClaim -/

@[simp] theorem State.popClaim_cfg (n : Nat) (s : State) : (s.popClaim n).cfg = s.cfg := rfl
@[simp] theorem State.popClaim_life (n : Nat) (s : State) : (s.popClaim n).life = s.life := rfl
@[simp] theorem State.popClaim_enabled (n : Nat) (s : State) : (s.popClaim n).enabled = s.enabled := rfl
@[simp] theorem State.popClaim_high (n : Nat) (s : State) : (s.popClaim n).high = s.high := rfl
@[simp] theorem State.popClaim_cps (n : Nat) (s : State) : (s.popClaim n).cps = s.cps := rfl
@[simp] theorem State.popClaim_elapsed (n : Nat) (s : State) : (s.popClaim n).elapsed = s.elapsed := rfl
@[simp] theorem State.popClaim_highacc (n : Nat) (s : State) : (s.popClaim n).highacc = s.highacc := rfl
@[simp] theorem State.popClaim_wptr (n : Nat) (s : State) : (s.popClaim n).wptr = s.wptr := rfl
@[simp] theorem State.popClaim_rptr (n : Nat) (s : State) : (s.popClaim n).rptr = s.rptr := rfl
@[simp] theorem State.popClaim_drops (n : Nat) (s : State) : (s.popClaim n).drops = s.drops := rfl
@[simp] theorem State.popClaim_pendLen (n : Nat) (s : State) : (s.popClaim n).pendLen = s.pendLen := rfl
@[simp] theorem State.popClaim_store (n : Nat) (s : State) : (s.popClaim n).store = s.store := rfl
@[simp] theorem State.popClaim_pend (n : Nat) (s : State) : (s.popClaim n).pend = s.pend := rfl
@[simp] theorem State.popClaim_ctActive (n : Nat) (s : State) : (s.popClaim n).ctActive = true := rfl
@[simp] theorem State.popClaim_ctR0 (n : Nat) (s : State) : (s.popClaim n).ctR0 = s.rptr := rfl
@[simp] theorem State.popClaim_ctK (n : Nat) (s : State) : (s.popClaim n).ctK = 
    BitVec.ofNat 32 (min n s.occupancy) := rfl
@[simp] theorem State.popClaim_ctOut (n : Nat) (s : State) : (s.popClaim n).ctOut = [] := rfl
@[simp] theorem State.popClaim_flight (n : Nat) (s : State) : (s.popClaim n).flight = s.flight := rfl
@[simp] theorem State.popClaim_port (n : Nat) (s : State) : (s.popClaim n).port = s.port := rfl
@[simp] theorem State.popClaim_inP (n : Nat) (s : State) : (s.popClaim n).inP = s.inP := rfl
@[simp] theorem State.popClaim_inC (n : Nat) (s : State) : (s.popClaim n).inC = s.inC := rfl
@[simp] theorem State.popClaim_inH (n : Nat) (s : State) : (s.popClaim n).inH = s.inH := rfl
@[simp] theorem State.popClaim_outP (n : Nat) (s : State) : (s.popClaim n).outP = s.outP := rfl
@[simp] theorem State.popClaim_outC (n : Nat) (s : State) : (s.popClaim n).outC = s.outC := rfl
@[simp] theorem State.popClaim_outH (n : Nat) (s : State) : (s.popClaim n).outH = s.outH := rfl
@[simp] theorem State.popClaim_schedule (n : Nat) (s : State) : (s.popClaim n).schedule = s.schedule := rfl
@[simp] theorem State.popClaim_turns (n : Nat) (s : State) : (s.popClaim n).turns = s.turns := rfl
@[simp] theorem State.popClaim_sinkOpens (n : Nat) (s : State) : (s.popClaim n).sinkOpens = s.sinkOpens := rfl
@[simp] theorem State.popClaim_sinkAccepts (n : Nat) (s : State) : (s.popClaim n).sinkAccepts = 
    s.sinkAccepts := rfl
@[simp] theorem State.popClaim_sinkDepths (n : Nat) (s : State) : (s.popClaim n).sinkDepths = 
    s.sinkDepths := rfl
@[simp] theorem State.popClaim_draws (n : Nat) (s : State) : (s.popClaim n).draws = s.draws := rfl
@[simp] theorem State.popClaim_sinkCalls (n : Nat) (s : State) : (s.popClaim n).sinkCalls = s.sinkCalls := rfl

/-! ### popCopy -/

@[simp] theorem State.popCopy_cfg (s : State) : (s.popCopy).cfg = s.cfg := rfl
@[simp] theorem State.popCopy_life (s : State) : (s.popCopy).life = s.life := rfl
@[simp] theorem State.popCopy_enabled (s : State) : (s.popCopy).enabled = s.enabled := rfl
@[simp] theorem State.popCopy_high (s : State) : (s.popCopy).high = s.high := rfl
@[simp] theorem State.popCopy_cps (s : State) : (s.popCopy).cps = s.cps := rfl
@[simp] theorem State.popCopy_elapsed (s : State) : (s.popCopy).elapsed = s.elapsed := rfl
@[simp] theorem State.popCopy_highacc (s : State) : (s.popCopy).highacc = s.highacc := rfl
@[simp] theorem State.popCopy_wptr (s : State) : (s.popCopy).wptr = s.wptr := rfl
@[simp] theorem State.popCopy_rptr (s : State) : (s.popCopy).rptr = s.rptr := rfl
@[simp] theorem State.popCopy_drops (s : State) : (s.popCopy).drops = s.drops := rfl
@[simp] theorem State.popCopy_pendLen (s : State) : (s.popCopy).pendLen = s.pendLen := rfl
@[simp] theorem State.popCopy_store (s : State) : (s.popCopy).store = s.store := rfl
@[simp] theorem State.popCopy_pend (s : State) : (s.popCopy).pend = s.pend := rfl
@[simp] theorem State.popCopy_ctActive (s : State) : (s.popCopy).ctActive = s.ctActive := rfl
@[simp] theorem State.popCopy_ctR0 (s : State) : (s.popCopy).ctR0 = s.ctR0 := rfl
@[simp] theorem State.popCopy_ctK (s : State) : (s.popCopy).ctK = s.ctK := rfl
@[simp] theorem State.popCopy_ctOut (s : State) : (s.popCopy).ctOut = 
    s.ctOut ++ [s.readStore ((s.ctR0.toNat + s.ctOut.length) % s.cfg.capacity)] := rfl
@[simp] theorem State.popCopy_flight (s : State) : (s.popCopy).flight = s.flight := rfl
@[simp] theorem State.popCopy_port (s : State) : (s.popCopy).port = s.port := rfl
@[simp] theorem State.popCopy_inP (s : State) : (s.popCopy).inP = s.inP := rfl
@[simp] theorem State.popCopy_inC (s : State) : (s.popCopy).inC = s.inC := rfl
@[simp] theorem State.popCopy_inH (s : State) : (s.popCopy).inH = s.inH := rfl
@[simp] theorem State.popCopy_outP (s : State) : (s.popCopy).outP = s.outP := rfl
@[simp] theorem State.popCopy_outC (s : State) : (s.popCopy).outC = s.outC := rfl
@[simp] theorem State.popCopy_outH (s : State) : (s.popCopy).outH = s.outH := rfl
@[simp] theorem State.popCopy_schedule (s : State) : (s.popCopy).schedule = s.schedule := rfl
@[simp] theorem State.popCopy_turns (s : State) : (s.popCopy).turns = s.turns := rfl
@[simp] theorem State.popCopy_sinkOpens (s : State) : (s.popCopy).sinkOpens = s.sinkOpens := rfl
@[simp] theorem State.popCopy_sinkAccepts (s : State) : (s.popCopy).sinkAccepts = s.sinkAccepts := rfl
@[simp] theorem State.popCopy_sinkDepths (s : State) : (s.popCopy).sinkDepths = s.sinkDepths := rfl
@[simp] theorem State.popCopy_draws (s : State) : (s.popCopy).draws = s.draws := rfl
@[simp] theorem State.popCopy_sinkCalls (s : State) : (s.popCopy).sinkCalls = s.sinkCalls := rfl

/-! ### popCommit -/

@[simp] theorem State.popCommit_cfg (s : State) : (s.popCommit).cfg = s.cfg := rfl
@[simp] theorem State.popCommit_life (s : State) : (s.popCommit).life = s.life := rfl
@[simp] theorem State.popCommit_enabled (s : State) : (s.popCommit).enabled = s.enabled := rfl
@[simp] theorem State.popCommit_high (s : State) : (s.popCommit).high = s.high := rfl
@[simp] theorem State.popCommit_cps (s : State) : (s.popCommit).cps = s.cps := rfl
@[simp] theorem State.popCommit_elapsed (s : State) : (s.popCommit).elapsed = s.elapsed := rfl
@[simp] theorem State.popCommit_highacc (s : State) : (s.popCommit).highacc = s.highacc := rfl
@[simp] theorem State.popCommit_wptr (s : State) : (s.popCommit).wptr = s.wptr := rfl
@[simp] theorem State.popCommit_rptr (s : State) : (s.popCommit).rptr = 
    BitVec.ofNat 32 ((s.ctR0.toNat + max s.ctK.toNat s.dropsSinceClaim) % s.cfg.capacity) := rfl
@[simp] theorem State.popCommit_drops (s : State) : (s.popCommit).drops = s.drops := rfl
@[simp] theorem State.popCommit_pendLen (s : State) : (s.popCommit).pendLen = s.pendLen := rfl
@[simp] theorem State.popCommit_store (s : State) : (s.popCommit).store = s.store := rfl
@[simp] theorem State.popCommit_pend (s : State) : (s.popCommit).pend = s.pend := rfl
@[simp] theorem State.popCommit_ctActive (s : State) : (s.popCommit).ctActive = false := rfl
@[simp] theorem State.popCommit_ctR0 (s : State) : (s.popCommit).ctR0 = s.ctR0 := rfl
@[simp] theorem State.popCommit_ctK (s : State) : (s.popCommit).ctK = s.ctK := rfl
@[simp] theorem State.popCommit_ctOut (s : State) : (s.popCommit).ctOut = s.ctOut := rfl
@[simp] theorem State.popCommit_flight (s : State) : (s.popCommit).flight = s.flight := rfl
@[simp] theorem State.popCommit_port (s : State) : (s.popCommit).port = s.port := rfl
@[simp] theorem State.popCommit_inP (s : State) : (s.popCommit).inP = s.inP := rfl
@[simp] theorem State.popCommit_inC (s : State) : (s.popCommit).inC = s.inC := rfl
@[simp] theorem State.popCommit_inH (s : State) : (s.popCommit).inH = s.inH := rfl
@[simp] theorem State.popCommit_outP (s : State) : (s.popCommit).outP = s.outP := rfl
@[simp] theorem State.popCommit_outC (s : State) : (s.popCommit).outC = s.outC := rfl
@[simp] theorem State.popCommit_outH (s : State) : (s.popCommit).outH = s.outH := rfl
@[simp] theorem State.popCommit_schedule (s : State) : (s.popCommit).schedule = s.schedule := rfl
@[simp] theorem State.popCommit_turns (s : State) : (s.popCommit).turns = s.turns := rfl
@[simp] theorem State.popCommit_sinkOpens (s : State) : (s.popCommit).sinkOpens = s.sinkOpens := rfl
@[simp] theorem State.popCommit_sinkAccepts (s : State) : (s.popCommit).sinkAccepts = s.sinkAccepts := rfl
@[simp] theorem State.popCommit_sinkDepths (s : State) : (s.popCommit).sinkDepths = s.sinkDepths := rfl
@[simp] theorem State.popCommit_draws (s : State) : (s.popCommit).draws = s.draws := rfl
@[simp] theorem State.popCommit_sinkCalls (s : State) : (s.popCommit).sinkCalls = s.sinkCalls := rfl

/-! ### popAbandon -/

@[simp] theorem State.popAbandon_cfg (s : State) : (s.popAbandon).cfg = s.cfg := rfl
@[simp] theorem State.popAbandon_life (s : State) : (s.popAbandon).life = s.life := rfl
@[simp] theorem State.popAbandon_enabled (s : State) : (s.popAbandon).enabled = s.enabled := rfl
@[simp] theorem State.popAbandon_high (s : State) : (s.popAbandon).high = s.high := rfl
@[simp] theorem State.popAbandon_cps (s : State) : (s.popAbandon).cps = s.cps := rfl
@[simp] theorem State.popAbandon_elapsed (s : State) : (s.popAbandon).elapsed = s.elapsed := rfl
@[simp] theorem State.popAbandon_highacc (s : State) : (s.popAbandon).highacc = s.highacc := rfl
@[simp] theorem State.popAbandon_wptr (s : State) : (s.popAbandon).wptr = s.wptr := rfl
@[simp] theorem State.popAbandon_rptr (s : State) : (s.popAbandon).rptr = s.rptr := rfl
@[simp] theorem State.popAbandon_drops (s : State) : (s.popAbandon).drops = s.drops := rfl
@[simp] theorem State.popAbandon_pendLen (s : State) : (s.popAbandon).pendLen = s.pendLen := rfl
@[simp] theorem State.popAbandon_store (s : State) : (s.popAbandon).store = s.store := rfl
@[simp] theorem State.popAbandon_pend (s : State) : (s.popAbandon).pend = s.pend := rfl
@[simp] theorem State.popAbandon_ctActive (s : State) : (s.popAbandon).ctActive = false := rfl
@[simp] theorem State.popAbandon_ctR0 (s : State) : (s.popAbandon).ctR0 = s.ctR0 := rfl
@[simp] theorem State.popAbandon_ctK (s : State) : (s.popAbandon).ctK = s.ctK := rfl
@[simp] theorem State.popAbandon_ctOut (s : State) : (s.popAbandon).ctOut = s.ctOut := rfl
@[simp] theorem State.popAbandon_flight (s : State) : (s.popAbandon).flight = s.flight := rfl
@[simp] theorem State.popAbandon_port (s : State) : (s.popAbandon).port = s.port := rfl
@[simp] theorem State.popAbandon_inP (s : State) : (s.popAbandon).inP = s.inP := rfl
@[simp] theorem State.popAbandon_inC (s : State) : (s.popAbandon).inC = s.inC := rfl
@[simp] theorem State.popAbandon_inH (s : State) : (s.popAbandon).inH = s.inH := rfl
@[simp] theorem State.popAbandon_outP (s : State) : (s.popAbandon).outP = s.outP := rfl
@[simp] theorem State.popAbandon_outC (s : State) : (s.popAbandon).outC = s.outC := rfl
@[simp] theorem State.popAbandon_outH (s : State) : (s.popAbandon).outH = s.outH := rfl
@[simp] theorem State.popAbandon_schedule (s : State) : (s.popAbandon).schedule = s.schedule := rfl
@[simp] theorem State.popAbandon_turns (s : State) : (s.popAbandon).turns = s.turns := rfl
@[simp] theorem State.popAbandon_sinkOpens (s : State) : (s.popAbandon).sinkOpens = s.sinkOpens := rfl
@[simp] theorem State.popAbandon_sinkAccepts (s : State) : (s.popAbandon).sinkAccepts = s.sinkAccepts := rfl
@[simp] theorem State.popAbandon_sinkDepths (s : State) : (s.popAbandon).sinkDepths = s.sinkDepths := rfl
@[simp] theorem State.popAbandon_draws (s : State) : (s.popAbandon).draws = s.draws := rfl
@[simp] theorem State.popAbandon_sinkCalls (s : State) : (s.popAbandon).sinkCalls = s.sinkCalls := rfl

/-! ### callSink -/

@[simp] theorem State.callSink_cfg (k : SinkCall) (s : State) : (s.callSink k).cfg = s.cfg := rfl
@[simp] theorem State.callSink_life (k : SinkCall) (s : State) : (s.callSink k).life = s.life := rfl
@[simp] theorem State.callSink_enabled (k : SinkCall) (s : State) : (s.callSink k).enabled = s.enabled := rfl
@[simp] theorem State.callSink_high (k : SinkCall) (s : State) : (s.callSink k).high = s.high := rfl
@[simp] theorem State.callSink_cps (k : SinkCall) (s : State) : (s.callSink k).cps = s.cps := rfl
@[simp] theorem State.callSink_elapsed (k : SinkCall) (s : State) : (s.callSink k).elapsed = s.elapsed := rfl
@[simp] theorem State.callSink_highacc (k : SinkCall) (s : State) : (s.callSink k).highacc = s.highacc := rfl
@[simp] theorem State.callSink_wptr (k : SinkCall) (s : State) : (s.callSink k).wptr = s.wptr := rfl
@[simp] theorem State.callSink_rptr (k : SinkCall) (s : State) : (s.callSink k).rptr = s.rptr := rfl
@[simp] theorem State.callSink_drops (k : SinkCall) (s : State) : (s.callSink k).drops = s.drops := rfl
@[simp] theorem State.callSink_pendLen (k : SinkCall) (s : State) : (s.callSink k).pendLen = s.pendLen := rfl
@[simp] theorem State.callSink_store (k : SinkCall) (s : State) : (s.callSink k).store = s.store := rfl
@[simp] theorem State.callSink_pend (k : SinkCall) (s : State) : (s.callSink k).pend = s.pend := rfl
@[simp] theorem State.callSink_ctActive (k : SinkCall) (s : State) : (s.callSink k).ctActive = 
    s.ctActive := rfl
@[simp] theorem State.callSink_ctR0 (k : SinkCall) (s : State) : (s.callSink k).ctR0 = s.ctR0 := rfl
@[simp] theorem State.callSink_ctK (k : SinkCall) (s : State) : (s.callSink k).ctK = s.ctK := rfl
@[simp] theorem State.callSink_ctOut (k : SinkCall) (s : State) : (s.callSink k).ctOut = s.ctOut := rfl
@[simp] theorem State.callSink_flight (k : SinkCall) (s : State) : (s.callSink k).flight = s.flight := rfl
@[simp] theorem State.callSink_port (k : SinkCall) (s : State) : (s.callSink k).port = s.port := rfl
@[simp] theorem State.callSink_inP (k : SinkCall) (s : State) : (s.callSink k).inP = s.inP := rfl
@[simp] theorem State.callSink_inC (k : SinkCall) (s : State) : (s.callSink k).inC = s.inC := rfl
@[simp] theorem State.callSink_inH (k : SinkCall) (s : State) : (s.callSink k).inH = s.inH := rfl
@[simp] theorem State.callSink_outP (k : SinkCall) (s : State) : (s.callSink k).outP = s.outP := rfl
@[simp] theorem State.callSink_outC (k : SinkCall) (s : State) : (s.callSink k).outC = s.outC := rfl
@[simp] theorem State.callSink_outH (k : SinkCall) (s : State) : (s.callSink k).outH = s.outH := rfl
@[simp] theorem State.callSink_schedule (k : SinkCall) (s : State) : (s.callSink k).schedule = 
    s.schedule := rfl
@[simp] theorem State.callSink_turns (k : SinkCall) (s : State) : (s.callSink k).turns = s.turns := rfl
@[simp] theorem State.callSink_sinkOpens (k : SinkCall) (s : State) : (s.callSink k).sinkOpens = 
    s.sinkOpens := rfl
@[simp] theorem State.callSink_sinkAccepts (k : SinkCall) (s : State) : (s.callSink k).sinkAccepts = 
    s.sinkAccepts := rfl
@[simp] theorem State.callSink_sinkDepths (k : SinkCall) (s : State) : (s.callSink k).sinkDepths = 
    s.sinkDepths := rfl
@[simp] theorem State.callSink_draws (k : SinkCall) (s : State) : (s.callSink k).draws = s.draws := rfl
@[simp] theorem State.callSink_sinkCalls (k : SinkCall) (s : State) : (s.callSink k).sinkCalls = 
    s.sinkCalls ++ [k] := rfl

/-! ### sinkOpen -/

@[simp] theorem State.sinkOpen_cfg (s : State) : (s.sinkOpen).cfg = s.cfg := rfl
@[simp] theorem State.sinkOpen_life (s : State) : (s.sinkOpen).life = s.life := rfl
@[simp] theorem State.sinkOpen_enabled (s : State) : (s.sinkOpen).enabled = s.enabled := rfl
@[simp] theorem State.sinkOpen_high (s : State) : (s.sinkOpen).high = s.high := rfl
@[simp] theorem State.sinkOpen_cps (s : State) : (s.sinkOpen).cps = s.cps := rfl
@[simp] theorem State.sinkOpen_elapsed (s : State) : (s.sinkOpen).elapsed = s.elapsed := rfl
@[simp] theorem State.sinkOpen_highacc (s : State) : (s.sinkOpen).highacc = s.highacc := rfl
@[simp] theorem State.sinkOpen_wptr (s : State) : (s.sinkOpen).wptr = s.wptr := rfl
@[simp] theorem State.sinkOpen_rptr (s : State) : (s.sinkOpen).rptr = s.rptr := rfl
@[simp] theorem State.sinkOpen_drops (s : State) : (s.sinkOpen).drops = s.drops := rfl
@[simp] theorem State.sinkOpen_pendLen (s : State) : (s.sinkOpen).pendLen = s.pendLen := rfl
@[simp] theorem State.sinkOpen_store (s : State) : (s.sinkOpen).store = s.store := rfl
@[simp] theorem State.sinkOpen_pend (s : State) : (s.sinkOpen).pend = s.pend := rfl
@[simp] theorem State.sinkOpen_ctActive (s : State) : (s.sinkOpen).ctActive = s.ctActive := rfl
@[simp] theorem State.sinkOpen_ctR0 (s : State) : (s.sinkOpen).ctR0 = s.ctR0 := rfl
@[simp] theorem State.sinkOpen_ctK (s : State) : (s.sinkOpen).ctK = s.ctK := rfl
@[simp] theorem State.sinkOpen_ctOut (s : State) : (s.sinkOpen).ctOut = s.ctOut := rfl
@[simp] theorem State.sinkOpen_flight (s : State) : (s.sinkOpen).flight = s.flight := rfl
@[simp] theorem State.sinkOpen_port (s : State) : (s.sinkOpen).port = s.port := rfl
@[simp] theorem State.sinkOpen_inP (s : State) : (s.sinkOpen).inP = s.inP := rfl
@[simp] theorem State.sinkOpen_inC (s : State) : (s.sinkOpen).inC = s.inC := rfl
@[simp] theorem State.sinkOpen_inH (s : State) : (s.sinkOpen).inH = s.inH := rfl
@[simp] theorem State.sinkOpen_outP (s : State) : (s.sinkOpen).outP = s.outP := rfl
@[simp] theorem State.sinkOpen_outC (s : State) : (s.sinkOpen).outC = s.outC := rfl
@[simp] theorem State.sinkOpen_outH (s : State) : (s.sinkOpen).outH = s.outH := rfl
@[simp] theorem State.sinkOpen_schedule (s : State) : (s.sinkOpen).schedule = s.schedule := rfl
@[simp] theorem State.sinkOpen_turns (s : State) : (s.sinkOpen).turns = s.turns := rfl
@[simp] theorem State.sinkOpen_sinkOpens (s : State) : (s.sinkOpen).sinkOpens = s.sinkOpens.tail := rfl
@[simp] theorem State.sinkOpen_sinkAccepts (s : State) : (s.sinkOpen).sinkAccepts = s.sinkAccepts := rfl
@[simp] theorem State.sinkOpen_sinkDepths (s : State) : (s.sinkOpen).sinkDepths = s.sinkDepths := rfl
@[simp] theorem State.sinkOpen_draws (s : State) : (s.sinkOpen).draws = 
    (if s.sinkOpens.isEmpty then s.draws + 1 else s.draws) := rfl
@[simp] theorem State.sinkOpen_sinkCalls (s : State) : (s.sinkOpen).sinkCalls = 
    s.sinkCalls ++ [.openSink s.cfg.sampleRate 1 .binary32 s.nextOpen] := rfl

/-! ### sinkEnqueue -/

@[simp] theorem State.sinkEnqueue_cfg (xs : List Sample) (s : State) : (s.sinkEnqueue xs).cfg = s.cfg := rfl
@[simp] theorem State.sinkEnqueue_life (xs : List Sample) (s : State) : (s.sinkEnqueue xs).life = s.life := rfl
@[simp] theorem State.sinkEnqueue_enabled (xs : List Sample) (s : State) : (s.sinkEnqueue xs).enabled = 
    s.enabled := rfl
@[simp] theorem State.sinkEnqueue_high (xs : List Sample) (s : State) : (s.sinkEnqueue xs).high = s.high := rfl
@[simp] theorem State.sinkEnqueue_cps (xs : List Sample) (s : State) : (s.sinkEnqueue xs).cps = s.cps := rfl
@[simp] theorem State.sinkEnqueue_elapsed (xs : List Sample) (s : State) : (s.sinkEnqueue xs).elapsed = 
    s.elapsed := rfl
@[simp] theorem State.sinkEnqueue_highacc (xs : List Sample) (s : State) : (s.sinkEnqueue xs).highacc = 
    s.highacc := rfl
@[simp] theorem State.sinkEnqueue_wptr (xs : List Sample) (s : State) : (s.sinkEnqueue xs).wptr = s.wptr := rfl
@[simp] theorem State.sinkEnqueue_rptr (xs : List Sample) (s : State) : (s.sinkEnqueue xs).rptr = s.rptr := rfl
@[simp] theorem State.sinkEnqueue_drops (xs : List Sample) (s : State) : (s.sinkEnqueue xs).drops = 
    s.drops := rfl
@[simp] theorem State.sinkEnqueue_pendLen (xs : List Sample) (s : State) : (s.sinkEnqueue xs).pendLen = 
    s.pendLen := rfl
@[simp] theorem State.sinkEnqueue_store (xs : List Sample) (s : State) : (s.sinkEnqueue xs).store = 
    s.store := rfl
@[simp] theorem State.sinkEnqueue_pend (xs : List Sample) (s : State) : (s.sinkEnqueue xs).pend = s.pend := rfl
@[simp] theorem State.sinkEnqueue_ctActive (xs : List Sample) (s : State) : (s.sinkEnqueue xs).ctActive = 
    s.ctActive := rfl
@[simp] theorem State.sinkEnqueue_ctR0 (xs : List Sample) (s : State) : (s.sinkEnqueue xs).ctR0 = s.ctR0 := rfl
@[simp] theorem State.sinkEnqueue_ctK (xs : List Sample) (s : State) : (s.sinkEnqueue xs).ctK = s.ctK := rfl
@[simp] theorem State.sinkEnqueue_ctOut (xs : List Sample) (s : State) : (s.sinkEnqueue xs).ctOut = 
    s.ctOut := rfl
@[simp] theorem State.sinkEnqueue_flight (xs : List Sample) (s : State) : (s.sinkEnqueue xs).flight = 
    s.flight := rfl
@[simp] theorem State.sinkEnqueue_port (xs : List Sample) (s : State) : (s.sinkEnqueue xs).port = s.port := rfl
@[simp] theorem State.sinkEnqueue_inP (xs : List Sample) (s : State) : (s.sinkEnqueue xs).inP = s.inP := rfl
@[simp] theorem State.sinkEnqueue_inC (xs : List Sample) (s : State) : (s.sinkEnqueue xs).inC = s.inC := rfl
@[simp] theorem State.sinkEnqueue_inH (xs : List Sample) (s : State) : (s.sinkEnqueue xs).inH = s.inH := rfl
@[simp] theorem State.sinkEnqueue_outP (xs : List Sample) (s : State) : (s.sinkEnqueue xs).outP = s.outP := rfl
@[simp] theorem State.sinkEnqueue_outC (xs : List Sample) (s : State) : (s.sinkEnqueue xs).outC = s.outC := rfl
@[simp] theorem State.sinkEnqueue_outH (xs : List Sample) (s : State) : (s.sinkEnqueue xs).outH = s.outH := rfl
@[simp] theorem State.sinkEnqueue_schedule (xs : List Sample) (s : State) : (s.sinkEnqueue xs).schedule = 
    s.schedule := rfl
@[simp] theorem State.sinkEnqueue_turns (xs : List Sample) (s : State) : (s.sinkEnqueue xs).turns = 
    s.turns := rfl
@[simp] theorem State.sinkEnqueue_sinkOpens (xs : List Sample) (s : State) : (s.sinkEnqueue xs).sinkOpens = 
    s.sinkOpens := rfl
@[simp] theorem State.sinkEnqueue_sinkAccepts (xs : List Sample) (s : State) : (s.sinkEnqueue xs).sinkAccepts = 
    s.sinkAccepts.tail := rfl
@[simp] theorem State.sinkEnqueue_sinkDepths (xs : List Sample) (s : State) : (s.sinkEnqueue xs).sinkDepths = 
    s.sinkDepths := rfl
@[simp] theorem State.sinkEnqueue_draws (xs : List Sample) (s : State) : (s.sinkEnqueue xs).draws = 
    (if s.sinkAccepts.isEmpty then s.draws + 1 else s.draws) := rfl
@[simp] theorem State.sinkEnqueue_sinkCalls (xs : List Sample) (s : State) : (s.sinkEnqueue xs).sinkCalls = 
    s.sinkCalls ++ [.enqueue xs (s.nextAccept xs.length)] := rfl

/-! ### sinkQueuedDepth -/

@[simp] theorem State.sinkQueuedDepth_cfg (s : State) : (s.sinkQueuedDepth).cfg = s.cfg := rfl
@[simp] theorem State.sinkQueuedDepth_life (s : State) : (s.sinkQueuedDepth).life = s.life := rfl
@[simp] theorem State.sinkQueuedDepth_enabled (s : State) : (s.sinkQueuedDepth).enabled = s.enabled := rfl
@[simp] theorem State.sinkQueuedDepth_high (s : State) : (s.sinkQueuedDepth).high = s.high := rfl
@[simp] theorem State.sinkQueuedDepth_cps (s : State) : (s.sinkQueuedDepth).cps = s.cps := rfl
@[simp] theorem State.sinkQueuedDepth_elapsed (s : State) : (s.sinkQueuedDepth).elapsed = s.elapsed := rfl
@[simp] theorem State.sinkQueuedDepth_highacc (s : State) : (s.sinkQueuedDepth).highacc = s.highacc := rfl
@[simp] theorem State.sinkQueuedDepth_wptr (s : State) : (s.sinkQueuedDepth).wptr = s.wptr := rfl
@[simp] theorem State.sinkQueuedDepth_rptr (s : State) : (s.sinkQueuedDepth).rptr = s.rptr := rfl
@[simp] theorem State.sinkQueuedDepth_drops (s : State) : (s.sinkQueuedDepth).drops = s.drops := rfl
@[simp] theorem State.sinkQueuedDepth_pendLen (s : State) : (s.sinkQueuedDepth).pendLen = s.pendLen := rfl
@[simp] theorem State.sinkQueuedDepth_store (s : State) : (s.sinkQueuedDepth).store = s.store := rfl
@[simp] theorem State.sinkQueuedDepth_pend (s : State) : (s.sinkQueuedDepth).pend = s.pend := rfl
@[simp] theorem State.sinkQueuedDepth_ctActive (s : State) : (s.sinkQueuedDepth).ctActive = s.ctActive := rfl
@[simp] theorem State.sinkQueuedDepth_ctR0 (s : State) : (s.sinkQueuedDepth).ctR0 = s.ctR0 := rfl
@[simp] theorem State.sinkQueuedDepth_ctK (s : State) : (s.sinkQueuedDepth).ctK = s.ctK := rfl
@[simp] theorem State.sinkQueuedDepth_ctOut (s : State) : (s.sinkQueuedDepth).ctOut = s.ctOut := rfl
@[simp] theorem State.sinkQueuedDepth_flight (s : State) : (s.sinkQueuedDepth).flight = s.flight := rfl
@[simp] theorem State.sinkQueuedDepth_port (s : State) : (s.sinkQueuedDepth).port = s.port := rfl
@[simp] theorem State.sinkQueuedDepth_inP (s : State) : (s.sinkQueuedDepth).inP = s.inP := rfl
@[simp] theorem State.sinkQueuedDepth_inC (s : State) : (s.sinkQueuedDepth).inC = s.inC := rfl
@[simp] theorem State.sinkQueuedDepth_inH (s : State) : (s.sinkQueuedDepth).inH = s.inH := rfl
@[simp] theorem State.sinkQueuedDepth_outP (s : State) : (s.sinkQueuedDepth).outP = s.outP := rfl
@[simp] theorem State.sinkQueuedDepth_outC (s : State) : (s.sinkQueuedDepth).outC = s.outC := rfl
@[simp] theorem State.sinkQueuedDepth_outH (s : State) : (s.sinkQueuedDepth).outH = s.outH := rfl
@[simp] theorem State.sinkQueuedDepth_schedule (s : State) : (s.sinkQueuedDepth).schedule = s.schedule := rfl
@[simp] theorem State.sinkQueuedDepth_turns (s : State) : (s.sinkQueuedDepth).turns = s.turns := rfl
@[simp] theorem State.sinkQueuedDepth_sinkOpens (s : State) : (s.sinkQueuedDepth).sinkOpens = 
    s.sinkOpens := rfl
@[simp] theorem State.sinkQueuedDepth_sinkAccepts (s : State) : (s.sinkQueuedDepth).sinkAccepts = 
    s.sinkAccepts := rfl
@[simp] theorem State.sinkQueuedDepth_sinkDepths (s : State) : (s.sinkQueuedDepth).sinkDepths = 
    s.sinkDepths.tail := rfl
@[simp] theorem State.sinkQueuedDepth_draws (s : State) : (s.sinkQueuedDepth).draws = 
    (if s.sinkDepths.isEmpty then s.draws + 1 else s.draws) := rfl
@[simp] theorem State.sinkQueuedDepth_sinkCalls (s : State) : (s.sinkQueuedDepth).sinkCalls = 
    s.sinkCalls ++ [.queuedDepth s.nextDepth] := rfl

/-! ### setPending -/

@[simp] theorem State.setPending_cfg (xs : List Sample) (s : State) : (s.setPending xs).cfg = s.cfg := rfl
@[simp] theorem State.setPending_life (xs : List Sample) (s : State) : (s.setPending xs).life = s.life := rfl
@[simp] theorem State.setPending_enabled (xs : List Sample) (s : State) : (s.setPending xs).enabled = 
    s.enabled := rfl
@[simp] theorem State.setPending_high (xs : List Sample) (s : State) : (s.setPending xs).high = s.high := rfl
@[simp] theorem State.setPending_cps (xs : List Sample) (s : State) : (s.setPending xs).cps = s.cps := rfl
@[simp] theorem State.setPending_elapsed (xs : List Sample) (s : State) : (s.setPending xs).elapsed = 
    s.elapsed := rfl
@[simp] theorem State.setPending_highacc (xs : List Sample) (s : State) : (s.setPending xs).highacc = 
    s.highacc := rfl
@[simp] theorem State.setPending_wptr (xs : List Sample) (s : State) : (s.setPending xs).wptr = s.wptr := rfl
@[simp] theorem State.setPending_rptr (xs : List Sample) (s : State) : (s.setPending xs).rptr = s.rptr := rfl
@[simp] theorem State.setPending_drops (xs : List Sample) (s : State) : (s.setPending xs).drops = 
    s.drops := rfl
@[simp] theorem State.setPending_pendLen (xs : List Sample) (s : State) : (s.setPending xs).pendLen = 
    BitVec.ofNat 32 xs.length := rfl
@[simp] theorem State.setPending_store (xs : List Sample) (s : State) : (s.setPending xs).store = 
    s.store := rfl
@[simp] theorem State.setPending_pend (xs : List Sample) (s : State) : (s.setPending xs).pend = 
    s.pend.writeList 0 xs := rfl
@[simp] theorem State.setPending_ctActive (xs : List Sample) (s : State) : (s.setPending xs).ctActive = 
    s.ctActive := rfl
@[simp] theorem State.setPending_ctR0 (xs : List Sample) (s : State) : (s.setPending xs).ctR0 = s.ctR0 := rfl
@[simp] theorem State.setPending_ctK (xs : List Sample) (s : State) : (s.setPending xs).ctK = s.ctK := rfl
@[simp] theorem State.setPending_ctOut (xs : List Sample) (s : State) : (s.setPending xs).ctOut = 
    s.ctOut := rfl
@[simp] theorem State.setPending_flight (xs : List Sample) (s : State) : (s.setPending xs).flight = 
    s.flight := rfl
@[simp] theorem State.setPending_port (xs : List Sample) (s : State) : (s.setPending xs).port = s.port := rfl
@[simp] theorem State.setPending_inP (xs : List Sample) (s : State) : (s.setPending xs).inP = s.inP := rfl
@[simp] theorem State.setPending_inC (xs : List Sample) (s : State) : (s.setPending xs).inC = s.inC := rfl
@[simp] theorem State.setPending_inH (xs : List Sample) (s : State) : (s.setPending xs).inH = s.inH := rfl
@[simp] theorem State.setPending_outP (xs : List Sample) (s : State) : (s.setPending xs).outP = s.outP := rfl
@[simp] theorem State.setPending_outC (xs : List Sample) (s : State) : (s.setPending xs).outC = s.outC := rfl
@[simp] theorem State.setPending_outH (xs : List Sample) (s : State) : (s.setPending xs).outH = s.outH := rfl
@[simp] theorem State.setPending_schedule (xs : List Sample) (s : State) : (s.setPending xs).schedule = 
    s.schedule := rfl
@[simp] theorem State.setPending_turns (xs : List Sample) (s : State) : (s.setPending xs).turns = 
    s.turns := rfl
@[simp] theorem State.setPending_sinkOpens (xs : List Sample) (s : State) : (s.setPending xs).sinkOpens = 
    s.sinkOpens := rfl
@[simp] theorem State.setPending_sinkAccepts (xs : List Sample) (s : State) : (s.setPending xs).sinkAccepts = 
    s.sinkAccepts := rfl
@[simp] theorem State.setPending_sinkDepths (xs : List Sample) (s : State) : (s.setPending xs).sinkDepths = 
    s.sinkDepths := rfl
@[simp] theorem State.setPending_draws (xs : List Sample) (s : State) : (s.setPending xs).draws = 
    s.draws := rfl
@[simp] theorem State.setPending_sinkCalls (xs : List Sample) (s : State) : (s.setPending xs).sinkCalls = 
    s.sinkCalls := rfl

/-! ### countCycle -/

@[simp] theorem State.countCycle_cfg (t : Bool) (s : State) : (s.countCycle t).cfg = s.cfg := rfl
@[simp] theorem State.countCycle_life (t : Bool) (s : State) : (s.countCycle t).life = s.life := rfl
@[simp] theorem State.countCycle_enabled (t : Bool) (s : State) : (s.countCycle t).enabled = s.enabled := rfl
@[simp] theorem State.countCycle_high (t : Bool) (s : State) : (s.countCycle t).high = toggled t s.high := rfl
@[simp] theorem State.countCycle_cps (t : Bool) (s : State) : (s.countCycle t).cps = s.cps := rfl
@[simp] theorem State.countCycle_elapsed (t : Bool) (s : State) : (s.countCycle t).elapsed = 
    BitVec.ofNat 64 s.countedElapsed := rfl
@[simp] theorem State.countCycle_highacc (t : Bool) (s : State) : (s.countCycle t).highacc = 
    BitVec.ofNat 64 (s.countedHigh t) := rfl
@[simp] theorem State.countCycle_wptr (t : Bool) (s : State) : (s.countCycle t).wptr = s.wptr := rfl
@[simp] theorem State.countCycle_rptr (t : Bool) (s : State) : (s.countCycle t).rptr = s.rptr := rfl
@[simp] theorem State.countCycle_drops (t : Bool) (s : State) : (s.countCycle t).drops = s.drops := rfl
@[simp] theorem State.countCycle_pendLen (t : Bool) (s : State) : (s.countCycle t).pendLen = s.pendLen := rfl
@[simp] theorem State.countCycle_store (t : Bool) (s : State) : (s.countCycle t).store = s.store := rfl
@[simp] theorem State.countCycle_pend (t : Bool) (s : State) : (s.countCycle t).pend = s.pend := rfl
@[simp] theorem State.countCycle_ctActive (t : Bool) (s : State) : (s.countCycle t).ctActive = 
    s.ctActive := rfl
@[simp] theorem State.countCycle_ctR0 (t : Bool) (s : State) : (s.countCycle t).ctR0 = s.ctR0 := rfl
@[simp] theorem State.countCycle_ctK (t : Bool) (s : State) : (s.countCycle t).ctK = s.ctK := rfl
@[simp] theorem State.countCycle_ctOut (t : Bool) (s : State) : (s.countCycle t).ctOut = s.ctOut := rfl
@[simp] theorem State.countCycle_flight (t : Bool) (s : State) : (s.countCycle t).flight = s.flight := rfl
@[simp] theorem State.countCycle_port (t : Bool) (s : State) : (s.countCycle t).port = s.port := rfl
@[simp] theorem State.countCycle_inP (t : Bool) (s : State) : (s.countCycle t).inP = s.inP := rfl
@[simp] theorem State.countCycle_inC (t : Bool) (s : State) : (s.countCycle t).inC = s.inC := rfl
@[simp] theorem State.countCycle_inH (t : Bool) (s : State) : (s.countCycle t).inH = s.inH := rfl
@[simp] theorem State.countCycle_outP (t : Bool) (s : State) : (s.countCycle t).outP = s.outP := rfl
@[simp] theorem State.countCycle_outC (t : Bool) (s : State) : (s.countCycle t).outC = s.outC := rfl
@[simp] theorem State.countCycle_outH (t : Bool) (s : State) : (s.countCycle t).outH = s.outH := rfl
@[simp] theorem State.countCycle_schedule (t : Bool) (s : State) : (s.countCycle t).schedule = 
    s.schedule := rfl
@[simp] theorem State.countCycle_turns (t : Bool) (s : State) : (s.countCycle t).turns = s.turns := rfl
@[simp] theorem State.countCycle_sinkOpens (t : Bool) (s : State) : (s.countCycle t).sinkOpens = 
    s.sinkOpens := rfl
@[simp] theorem State.countCycle_sinkAccepts (t : Bool) (s : State) : (s.countCycle t).sinkAccepts = 
    s.sinkAccepts := rfl
@[simp] theorem State.countCycle_sinkDepths (t : Bool) (s : State) : (s.countCycle t).sinkDepths = 
    s.sinkDepths := rfl
@[simp] theorem State.countCycle_draws (t : Bool) (s : State) : (s.countCycle t).draws = s.draws := rfl
@[simp] theorem State.countCycle_sinkCalls (t : Bool) (s : State) : (s.countCycle t).sinkCalls = 
    s.sinkCalls := rfl

/-! ### carryResidual -/

@[simp] theorem State.carryResidual_cfg (h e : Nat) (s : State) : (s.carryResidual h e).cfg = s.cfg := rfl
@[simp] theorem State.carryResidual_life (h e : Nat) (s : State) : (s.carryResidual h e).life = s.life := rfl
@[simp] theorem State.carryResidual_enabled (h e : Nat) (s : State) : (s.carryResidual h e).enabled = 
    s.enabled := rfl
@[simp] theorem State.carryResidual_high (h e : Nat) (s : State) : (s.carryResidual h e).high = s.high := rfl
@[simp] theorem State.carryResidual_cps (h e : Nat) (s : State) : (s.carryResidual h e).cps = s.cps := rfl
@[simp] theorem State.carryResidual_elapsed (h e : Nat) (s : State) : (s.carryResidual h e).elapsed = 
    BitVec.ofNat 64 (e - s.cps.toNat) := rfl
@[simp] theorem State.carryResidual_highacc (h e : Nat) (s : State) : (s.carryResidual h e).highacc = 
    BitVec.ofNat 64 (h * (e - s.cps.toNat) / e) := rfl
@[simp] theorem State.carryResidual_wptr (h e : Nat) (s : State) : (s.carryResidual h e).wptr = s.wptr := rfl
@[simp] theorem State.carryResidual_rptr (h e : Nat) (s : State) : (s.carryResidual h e).rptr = s.rptr := rfl
@[simp] theorem State.carryResidual_drops (h e : Nat) (s : State) : (s.carryResidual h e).drops = 
    s.drops := rfl
@[simp] theorem State.carryResidual_pendLen (h e : Nat) (s : State) : (s.carryResidual h e).pendLen = 
    s.pendLen := rfl
@[simp] theorem State.carryResidual_store (h e : Nat) (s : State) : (s.carryResidual h e).store = 
    s.store := rfl
@[simp] theorem State.carryResidual_pend (h e : Nat) (s : State) : (s.carryResidual h e).pend = s.pend := rfl
@[simp] theorem State.carryResidual_ctActive (h e : Nat) (s : State) : (s.carryResidual h e).ctActive = 
    s.ctActive := rfl
@[simp] theorem State.carryResidual_ctR0 (h e : Nat) (s : State) : (s.carryResidual h e).ctR0 = s.ctR0 := rfl
@[simp] theorem State.carryResidual_ctK (h e : Nat) (s : State) : (s.carryResidual h e).ctK = s.ctK := rfl
@[simp] theorem State.carryResidual_ctOut (h e : Nat) (s : State) : (s.carryResidual h e).ctOut = 
    s.ctOut := rfl
@[simp] theorem State.carryResidual_flight (h e : Nat) (s : State) : (s.carryResidual h e).flight = 
    s.flight := rfl
@[simp] theorem State.carryResidual_port (h e : Nat) (s : State) : (s.carryResidual h e).port = s.port := rfl
@[simp] theorem State.carryResidual_inP (h e : Nat) (s : State) : (s.carryResidual h e).inP = s.inP := rfl
@[simp] theorem State.carryResidual_inC (h e : Nat) (s : State) : (s.carryResidual h e).inC = s.inC := rfl
@[simp] theorem State.carryResidual_inH (h e : Nat) (s : State) : (s.carryResidual h e).inH = s.inH := rfl
@[simp] theorem State.carryResidual_outP (h e : Nat) (s : State) : (s.carryResidual h e).outP = s.outP := rfl
@[simp] theorem State.carryResidual_outC (h e : Nat) (s : State) : (s.carryResidual h e).outC = s.outC := rfl
@[simp] theorem State.carryResidual_outH (h e : Nat) (s : State) : (s.carryResidual h e).outH = s.outH := rfl
@[simp] theorem State.carryResidual_schedule (h e : Nat) (s : State) : (s.carryResidual h e).schedule = 
    s.schedule := rfl
@[simp] theorem State.carryResidual_turns (h e : Nat) (s : State) : (s.carryResidual h e).turns = 
    s.turns := rfl
@[simp] theorem State.carryResidual_sinkOpens (h e : Nat) (s : State) : (s.carryResidual h e).sinkOpens = 
    s.sinkOpens := rfl
@[simp] theorem State.carryResidual_sinkAccepts (h e : Nat) (s : State) : (s.carryResidual h e).sinkAccepts = 
    s.sinkAccepts := rfl
@[simp] theorem State.carryResidual_sinkDepths (h e : Nat) (s : State) : (s.carryResidual h e).sinkDepths = 
    s.sinkDepths := rfl
@[simp] theorem State.carryResidual_draws (h e : Nat) (s : State) : (s.carryResidual h e).draws = 
    s.draws := rfl
@[simp] theorem State.carryResidual_sinkCalls (h e : Nat) (s : State) : (s.carryResidual h e).sinkCalls = 
    s.sinkCalls := rfl

/-! ### setDefaults -/

@[simp] theorem State.setDefaults_cfg (s : State) : (s.setDefaults).cfg = s.cfg := rfl
@[simp] theorem State.setDefaults_life (s : State) : (s.setDefaults).life = .stopped := rfl
@[simp] theorem State.setDefaults_enabled (s : State) : (s.setDefaults).enabled = s.cfg.enabledDefault := rfl
@[simp] theorem State.setDefaults_high (s : State) : (s.setDefaults).high = false := rfl
@[simp] theorem State.setDefaults_cps (s : State) : (s.setDefaults).cps = 
    BitVec.ofNat 32 s.cfg.cpsNominal := rfl
@[simp] theorem State.setDefaults_elapsed (s : State) : (s.setDefaults).elapsed = 0 := rfl
@[simp] theorem State.setDefaults_highacc (s : State) : (s.setDefaults).highacc = 0 := rfl
@[simp] theorem State.setDefaults_wptr (s : State) : (s.setDefaults).wptr = 0 := rfl
@[simp] theorem State.setDefaults_rptr (s : State) : (s.setDefaults).rptr = 0 := rfl
@[simp] theorem State.setDefaults_drops (s : State) : (s.setDefaults).drops = 0 := rfl
@[simp] theorem State.setDefaults_pendLen (s : State) : (s.setDefaults).pendLen = 0 := rfl
@[simp] theorem State.setDefaults_store (s : State) : (s.setDefaults).store = s.store := rfl
@[simp] theorem State.setDefaults_pend (s : State) : (s.setDefaults).pend = s.pend := rfl
@[simp] theorem State.setDefaults_ctActive (s : State) : (s.setDefaults).ctActive = s.ctActive := rfl
@[simp] theorem State.setDefaults_ctR0 (s : State) : (s.setDefaults).ctR0 = s.ctR0 := rfl
@[simp] theorem State.setDefaults_ctK (s : State) : (s.setDefaults).ctK = s.ctK := rfl
@[simp] theorem State.setDefaults_ctOut (s : State) : (s.setDefaults).ctOut = s.ctOut := rfl
@[simp] theorem State.setDefaults_flight (s : State) : (s.setDefaults).flight = s.flight := rfl
@[simp] theorem State.setDefaults_port (s : State) : (s.setDefaults).port = s.port := rfl
@[simp] theorem State.setDefaults_inP (s : State) : (s.setDefaults).inP = s.inP := rfl
@[simp] theorem State.setDefaults_inC (s : State) : (s.setDefaults).inC = s.inC := rfl
@[simp] theorem State.setDefaults_inH (s : State) : (s.setDefaults).inH = s.inH := rfl
@[simp] theorem State.setDefaults_outP (s : State) : (s.setDefaults).outP = s.outP := rfl
@[simp] theorem State.setDefaults_outC (s : State) : (s.setDefaults).outC = s.outC := rfl
@[simp] theorem State.setDefaults_outH (s : State) : (s.setDefaults).outH = s.outH := rfl
@[simp] theorem State.setDefaults_schedule (s : State) : (s.setDefaults).schedule = s.schedule := rfl
@[simp] theorem State.setDefaults_turns (s : State) : (s.setDefaults).turns = s.turns := rfl
@[simp] theorem State.setDefaults_sinkOpens (s : State) : (s.setDefaults).sinkOpens = s.sinkOpens := rfl
@[simp] theorem State.setDefaults_sinkAccepts (s : State) : (s.setDefaults).sinkAccepts = s.sinkAccepts := rfl
@[simp] theorem State.setDefaults_sinkDepths (s : State) : (s.setDefaults).sinkDepths = s.sinkDepths := rfl
@[simp] theorem State.setDefaults_draws (s : State) : (s.setDefaults).draws = s.draws := rfl
@[simp] theorem State.setDefaults_sinkCalls (s : State) : (s.setDefaults).sinkCalls = s.sinkCalls := rfl

/-! ### importFields -/

@[simp] theorem State.importFields_cfg (ev en cv : Bool) (cps : BitVec 32) (s : State) : (s.importFields ev en cv cps).cfg = 
    s.cfg := rfl
@[simp] theorem State.importFields_life (ev en cv : Bool) (cps : BitVec 32) (s : State) : (s.importFields ev en cv cps).life = 
    s.life := rfl
@[simp] theorem State.importFields_enabled (ev en cv : Bool) (cps : BitVec 32) (s : State) : (s.importFields ev en cv cps).enabled = 
    importedEnabled s.cfg ev en := rfl
@[simp] theorem State.importFields_high (ev en cv : Bool) (cps : BitVec 32) (s : State) : (s.importFields ev en cv cps).high = 
    s.high := rfl
@[simp] theorem State.importFields_cps (ev en cv : Bool) (cps : BitVec 32) (s : State) : (s.importFields ev en cv cps).cps = 
    (if cv then clampCps s.cfg (cps.toNat : Int) else BitVec.ofNat 32 s.cfg.cpsNominal) := rfl
@[simp] theorem State.importFields_elapsed (ev en cv : Bool) (cps : BitVec 32) (s : State) : (s.importFields ev en cv cps).elapsed = 
    s.elapsed := rfl
@[simp] theorem State.importFields_highacc (ev en cv : Bool) (cps : BitVec 32) (s : State) : (s.importFields ev en cv cps).highacc = 
    s.highacc := rfl
@[simp] theorem State.importFields_wptr (ev en cv : Bool) (cps : BitVec 32) (s : State) : (s.importFields ev en cv cps).wptr = 
    s.wptr := rfl
@[simp] theorem State.importFields_rptr (ev en cv : Bool) (cps : BitVec 32) (s : State) : (s.importFields ev en cv cps).rptr = 
    s.rptr := rfl
@[simp] theorem State.importFields_drops (ev en cv : Bool) (cps : BitVec 32) (s : State) : (s.importFields ev en cv cps).drops = 
    s.drops := rfl
@[simp] theorem State.importFields_pendLen (ev en cv : Bool) (cps : BitVec 32) (s : State) : (s.importFields ev en cv cps).pendLen = 
    s.pendLen := rfl
@[simp] theorem State.importFields_store (ev en cv : Bool) (cps : BitVec 32) (s : State) : (s.importFields ev en cv cps).store = 
    s.store := rfl
@[simp] theorem State.importFields_pend (ev en cv : Bool) (cps : BitVec 32) (s : State) : (s.importFields ev en cv cps).pend = 
    s.pend := rfl
@[simp] theorem State.importFields_ctActive (ev en cv : Bool) (cps : BitVec 32) (s : State) : (s.importFields ev en cv cps).ctActive = 
    s.ctActive := rfl
@[simp] theorem State.importFields_ctR0 (ev en cv : Bool) (cps : BitVec 32) (s : State) : (s.importFields ev en cv cps).ctR0 = 
    s.ctR0 := rfl
@[simp] theorem State.importFields_ctK (ev en cv : Bool) (cps : BitVec 32) (s : State) : (s.importFields ev en cv cps).ctK = 
    s.ctK := rfl
@[simp] theorem State.importFields_ctOut (ev en cv : Bool) (cps : BitVec 32) (s : State) : (s.importFields ev en cv cps).ctOut = 
    s.ctOut := rfl
@[simp] theorem State.importFields_flight (ev en cv : Bool) (cps : BitVec 32) (s : State) : (s.importFields ev en cv cps).flight = 
    s.flight := rfl
@[simp] theorem State.importFields_port (ev en cv : Bool) (cps : BitVec 32) (s : State) : (s.importFields ev en cv cps).port = 
    s.port := rfl
@[simp] theorem State.importFields_inP (ev en cv : Bool) (cps : BitVec 32) (s : State) : (s.importFields ev en cv cps).inP = 
    s.inP := rfl
@[simp] theorem State.importFields_inC (ev en cv : Bool) (cps : BitVec 32) (s : State) : (s.importFields ev en cv cps).inC = 
    s.inC := rfl
@[simp] theorem State.importFields_inH (ev en cv : Bool) (cps : BitVec 32) (s : State) : (s.importFields ev en cv cps).inH = 
    s.inH := rfl
@[simp] theorem State.importFields_outP (ev en cv : Bool) (cps : BitVec 32) (s : State) : (s.importFields ev en cv cps).outP = 
    s.outP := rfl
@[simp] theorem State.importFields_outC (ev en cv : Bool) (cps : BitVec 32) (s : State) : (s.importFields ev en cv cps).outC = 
    s.outC := rfl
@[simp] theorem State.importFields_outH (ev en cv : Bool) (cps : BitVec 32) (s : State) : (s.importFields ev en cv cps).outH = 
    s.outH := rfl
@[simp] theorem State.importFields_schedule (ev en cv : Bool) (cps : BitVec 32) (s : State) : (s.importFields ev en cv cps).schedule = 
    s.schedule := rfl
@[simp] theorem State.importFields_turns (ev en cv : Bool) (cps : BitVec 32) (s : State) : (s.importFields ev en cv cps).turns = 
    s.turns := rfl
@[simp] theorem State.importFields_sinkOpens (ev en cv : Bool) (cps : BitVec 32) (s : State) : (s.importFields ev en cv cps).sinkOpens = 
    s.sinkOpens := rfl
@[simp] theorem State.importFields_sinkAccepts (ev en cv : Bool) (cps : BitVec 32) (s : State) : (s.importFields ev en cv cps).sinkAccepts = 
    s.sinkAccepts := rfl
@[simp] theorem State.importFields_sinkDepths (ev en cv : Bool) (cps : BitVec 32) (s : State) : (s.importFields ev en cv cps).sinkDepths = 
    s.sinkDepths := rfl
@[simp] theorem State.importFields_draws (ev en cv : Bool) (cps : BitVec 32) (s : State) : (s.importFields ev en cv cps).draws = 
    s.draws := rfl
@[simp] theorem State.importFields_sinkCalls (ev en cv : Bool) (cps : BitVec 32) (s : State) : (s.importFields ev en cv cps).sinkCalls = 
    s.sinkCalls := rfl

/-! ### rateAdjust: only `CPS` -/

@[simp] theorem State.rateAdjust_cfg (v : Nat) (s : State) : (s.rateAdjust v).cfg = s.cfg := by
  unfold State.rateAdjust; split <;> [rfl; (split <;> rfl)]
@[simp] theorem State.rateAdjust_life (v : Nat) (s : State) : (s.rateAdjust v).life = s.life := by
  unfold State.rateAdjust; split <;> [rfl; (split <;> rfl)]
@[simp] theorem State.rateAdjust_enabled (v : Nat) (s : State) : (s.rateAdjust v).enabled = s.enabled := by
  unfold State.rateAdjust; split <;> [rfl; (split <;> rfl)]
@[simp] theorem State.rateAdjust_high (v : Nat) (s : State) : (s.rateAdjust v).high = s.high := by
  unfold State.rateAdjust; split <;> [rfl; (split <;> rfl)]
@[simp] theorem State.rateAdjust_elapsed (v : Nat) (s : State) : (s.rateAdjust v).elapsed = s.elapsed := by
  unfold State.rateAdjust; split <;> [rfl; (split <;> rfl)]
@[simp] theorem State.rateAdjust_highacc (v : Nat) (s : State) : (s.rateAdjust v).highacc = s.highacc := by
  unfold State.rateAdjust; split <;> [rfl; (split <;> rfl)]
@[simp] theorem State.rateAdjust_wptr (v : Nat) (s : State) : (s.rateAdjust v).wptr = s.wptr := by
  unfold State.rateAdjust; split <;> [rfl; (split <;> rfl)]
@[simp] theorem State.rateAdjust_rptr (v : Nat) (s : State) : (s.rateAdjust v).rptr = s.rptr := by
  unfold State.rateAdjust; split <;> [rfl; (split <;> rfl)]
@[simp] theorem State.rateAdjust_drops (v : Nat) (s : State) : (s.rateAdjust v).drops = s.drops := by
  unfold State.rateAdjust; split <;> [rfl; (split <;> rfl)]
@[simp] theorem State.rateAdjust_pendLen (v : Nat) (s : State) : (s.rateAdjust v).pendLen = s.pendLen := by
  unfold State.rateAdjust; split <;> [rfl; (split <;> rfl)]
@[simp] theorem State.rateAdjust_store (v : Nat) (s : State) : (s.rateAdjust v).store = s.store := by
  unfold State.rateAdjust; split <;> [rfl; (split <;> rfl)]
@[simp] theorem State.rateAdjust_pend (v : Nat) (s : State) : (s.rateAdjust v).pend = s.pend := by
  unfold State.rateAdjust; split <;> [rfl; (split <;> rfl)]
@[simp] theorem State.rateAdjust_ctActive (v : Nat) (s : State) : (s.rateAdjust v).ctActive = s.ctActive := by
  unfold State.rateAdjust; split <;> [rfl; (split <;> rfl)]
@[simp] theorem State.rateAdjust_ctR0 (v : Nat) (s : State) : (s.rateAdjust v).ctR0 = s.ctR0 := by
  unfold State.rateAdjust; split <;> [rfl; (split <;> rfl)]
@[simp] theorem State.rateAdjust_ctK (v : Nat) (s : State) : (s.rateAdjust v).ctK = s.ctK := by
  unfold State.rateAdjust; split <;> [rfl; (split <;> rfl)]
@[simp] theorem State.rateAdjust_ctOut (v : Nat) (s : State) : (s.rateAdjust v).ctOut = s.ctOut := by
  unfold State.rateAdjust; split <;> [rfl; (split <;> rfl)]
@[simp] theorem State.rateAdjust_flight (v : Nat) (s : State) : (s.rateAdjust v).flight = s.flight := by
  unfold State.rateAdjust; split <;> [rfl; (split <;> rfl)]
@[simp] theorem State.rateAdjust_port (v : Nat) (s : State) : (s.rateAdjust v).port = s.port := by
  unfold State.rateAdjust; split <;> [rfl; (split <;> rfl)]
@[simp] theorem State.rateAdjust_inP (v : Nat) (s : State) : (s.rateAdjust v).inP = s.inP := by
  unfold State.rateAdjust; split <;> [rfl; (split <;> rfl)]
@[simp] theorem State.rateAdjust_inC (v : Nat) (s : State) : (s.rateAdjust v).inC = s.inC := by
  unfold State.rateAdjust; split <;> [rfl; (split <;> rfl)]
@[simp] theorem State.rateAdjust_inH (v : Nat) (s : State) : (s.rateAdjust v).inH = s.inH := by
  unfold State.rateAdjust; split <;> [rfl; (split <;> rfl)]
@[simp] theorem State.rateAdjust_outP (v : Nat) (s : State) : (s.rateAdjust v).outP = s.outP := by
  unfold State.rateAdjust; split <;> [rfl; (split <;> rfl)]
@[simp] theorem State.rateAdjust_outC (v : Nat) (s : State) : (s.rateAdjust v).outC = s.outC := by
  unfold State.rateAdjust; split <;> [rfl; (split <;> rfl)]
@[simp] theorem State.rateAdjust_outH (v : Nat) (s : State) : (s.rateAdjust v).outH = s.outH := by
  unfold State.rateAdjust; split <;> [rfl; (split <;> rfl)]
@[simp] theorem State.rateAdjust_schedule (v : Nat) (s : State) : (s.rateAdjust v).schedule = s.schedule := by
  unfold State.rateAdjust; split <;> [rfl; (split <;> rfl)]
@[simp] theorem State.rateAdjust_turns (v : Nat) (s : State) : (s.rateAdjust v).turns = s.turns := by
  unfold State.rateAdjust; split <;> [rfl; (split <;> rfl)]
@[simp] theorem State.rateAdjust_sinkOpens (v : Nat) (s : State) : (s.rateAdjust v).sinkOpens = s.sinkOpens := by
  unfold State.rateAdjust; split <;> [rfl; (split <;> rfl)]
@[simp] theorem State.rateAdjust_sinkAccepts (v : Nat) (s : State) : (s.rateAdjust v).sinkAccepts = s.sinkAccepts := by
  unfold State.rateAdjust; split <;> [rfl; (split <;> rfl)]
@[simp] theorem State.rateAdjust_sinkDepths (v : Nat) (s : State) : (s.rateAdjust v).sinkDepths = s.sinkDepths := by
  unfold State.rateAdjust; split <;> [rfl; (split <;> rfl)]
@[simp] theorem State.rateAdjust_draws (v : Nat) (s : State) : (s.rateAdjust v).draws = s.draws := by
  unfold State.rateAdjust; split <;> [rfl; (split <;> rfl)]
@[simp] theorem State.rateAdjust_sinkCalls (v : Nat) (s : State) : (s.rateAdjust v).sinkCalls = s.sinkCalls := by
  unfold State.rateAdjust; split <;> [rfl; (split <;> rfl)]

/-! ### takeTurn: only the schedule -/

@[simp] theorem State.takeTurn_cfg (s : State) : s.takeTurn.cfg = s.cfg := by
  unfold State.takeTurn; split <;> rfl
@[simp] theorem State.takeTurn_life (s : State) : s.takeTurn.life = s.life := by
  unfold State.takeTurn; split <;> rfl
@[simp] theorem State.takeTurn_enabled (s : State) : s.takeTurn.enabled = s.enabled := by
  unfold State.takeTurn; split <;> rfl
@[simp] theorem State.takeTurn_high (s : State) : s.takeTurn.high = s.high := by
  unfold State.takeTurn; split <;> rfl
@[simp] theorem State.takeTurn_cps (s : State) : s.takeTurn.cps = s.cps := by
  unfold State.takeTurn; split <;> rfl
@[simp] theorem State.takeTurn_elapsed (s : State) : s.takeTurn.elapsed = s.elapsed := by
  unfold State.takeTurn; split <;> rfl
@[simp] theorem State.takeTurn_highacc (s : State) : s.takeTurn.highacc = s.highacc := by
  unfold State.takeTurn; split <;> rfl
@[simp] theorem State.takeTurn_wptr (s : State) : s.takeTurn.wptr = s.wptr := by
  unfold State.takeTurn; split <;> rfl
@[simp] theorem State.takeTurn_rptr (s : State) : s.takeTurn.rptr = s.rptr := by
  unfold State.takeTurn; split <;> rfl
@[simp] theorem State.takeTurn_drops (s : State) : s.takeTurn.drops = s.drops := by
  unfold State.takeTurn; split <;> rfl
@[simp] theorem State.takeTurn_pendLen (s : State) : s.takeTurn.pendLen = s.pendLen := by
  unfold State.takeTurn; split <;> rfl
@[simp] theorem State.takeTurn_store (s : State) : s.takeTurn.store = s.store := by
  unfold State.takeTurn; split <;> rfl
@[simp] theorem State.takeTurn_pend (s : State) : s.takeTurn.pend = s.pend := by
  unfold State.takeTurn; split <;> rfl
@[simp] theorem State.takeTurn_ctActive (s : State) : s.takeTurn.ctActive = s.ctActive := by
  unfold State.takeTurn; split <;> rfl
@[simp] theorem State.takeTurn_ctR0 (s : State) : s.takeTurn.ctR0 = s.ctR0 := by
  unfold State.takeTurn; split <;> rfl
@[simp] theorem State.takeTurn_ctK (s : State) : s.takeTurn.ctK = s.ctK := by
  unfold State.takeTurn; split <;> rfl
@[simp] theorem State.takeTurn_ctOut (s : State) : s.takeTurn.ctOut = s.ctOut := by
  unfold State.takeTurn; split <;> rfl
@[simp] theorem State.takeTurn_flight (s : State) : s.takeTurn.flight = s.flight := by
  unfold State.takeTurn; split <;> rfl
@[simp] theorem State.takeTurn_inP (s : State) : s.takeTurn.inP = s.inP := by
  unfold State.takeTurn; split <;> rfl
@[simp] theorem State.takeTurn_inC (s : State) : s.takeTurn.inC = s.inC := by
  unfold State.takeTurn; split <;> rfl
@[simp] theorem State.takeTurn_inH (s : State) : s.takeTurn.inH = s.inH := by
  unfold State.takeTurn; split <;> rfl
@[simp] theorem State.takeTurn_outP (s : State) : s.takeTurn.outP = s.outP := by
  unfold State.takeTurn; split <;> rfl
@[simp] theorem State.takeTurn_outC (s : State) : s.takeTurn.outC = s.outC := by
  unfold State.takeTurn; split <;> rfl
@[simp] theorem State.takeTurn_outH (s : State) : s.takeTurn.outH = s.outH := by
  unfold State.takeTurn; split <;> rfl
@[simp] theorem State.takeTurn_sinkOpens (s : State) : s.takeTurn.sinkOpens = s.sinkOpens := by
  unfold State.takeTurn; split <;> rfl
@[simp] theorem State.takeTurn_sinkAccepts (s : State) : s.takeTurn.sinkAccepts = s.sinkAccepts := by
  unfold State.takeTurn; split <;> rfl
@[simp] theorem State.takeTurn_sinkDepths (s : State) : s.takeTurn.sinkDepths = s.sinkDepths := by
  unfold State.takeTurn; split <;> rfl
@[simp] theorem State.takeTurn_draws (s : State) : s.takeTurn.draws = s.draws := by
  unfold State.takeTurn; split <;> rfl
@[simp] theorem State.takeTurn_sinkCalls (s : State) : s.takeTurn.sinkCalls = s.sinkCalls := by
  unfold State.takeTurn; split <;> rfl

end Sys2Proof.Machine
end

