-- ==== Sys2Proof/Laws/Ops.lean ====
section
/-! SUPPORT. What each shared operation can do, once: modular distance, storage arrays, the ring, the pop
transaction, the response and the clamp. -/

namespace Sys2Proof

theorem modSub_lt (a b : Nat) {c : Nat} (hc : 0 < c) : modSub a b c < c := by
  have h1 := Int.emod_nonneg ((a : Int) - b) (by omega : (c : Int) ≠ 0)
  have h2 := Int.emod_lt_of_pos ((a : Int) - b) (by omega : (0 : Int) < c)
  unfold modSub
  omega

/-- Going `modSub a b c` forward from `b` reaches `a`, modulo `c`. -/
theorem add_modSub (a b : Nat) {c : Nat} (hc : 0 < c) : (b + modSub a b c) % c = a % c := by
  have h1 := Int.emod_nonneg ((a : Int) - b) (by omega : (c : Int) ≠ 0)
  unfold modSub
  zify
  rw [Int.toNat_of_nonneg h1, Int.add_emod_emod]
  congr 1
  ring

/-- A distance below `c` that leads from `b` to `a` is `modSub a b c`. -/
theorem modSub_unique {a b c k : Nat} (hk : k < c) (h : (b + k) % c = a % c) : modSub a b c = k := by
  have hc : 0 < c := by omega
  have h1 : modSub a b c % c = k % c :=
    Nat.ModEq.add_left_cancel' b ((add_modSub a b hc).trans h.symm : _ ≡ _ [MOD c])
  rwa [Nat.mod_eq_of_lt (modSub_lt a b hc), Nat.mod_eq_of_lt hk] at h1

namespace Machine

/-! ### Storage arrays -/

theorem Memory.find_write_same (m : Memory) (a : Nat) (x : Sample) : (m.write a x).find a = some x := by
  induction m with
  | nil => simp [Memory.write, Memory.find]
  | cons c m ih =>
    obtain ⟨b, y⟩ := c
    unfold Memory.write
    split
    · simp [Memory.find]
    · split
      · simp [Memory.find]
      · simp [Memory.find, *]

theorem Memory.find_write_other (m : Memory) {a b : Nat} (x : Sample) (h : b ≠ a) :
    (m.write a x).find b = m.find b := by
  induction m with
  | nil => simp [Memory.write, Memory.find, h]
  | cons c m ih =>
    obtain ⟨d, y⟩ := c
    unfold Memory.write
    split
    · simp [Memory.find, h]
    · split
      · subst_vars
        simp [Memory.find, h]
      · simp [Memory.find, ih]

theorem Memory.find_write (m : Memory) (a b : Nat) (x : Sample) :
    (m.write a x).find b = if b = a then some x else m.find b := by
  split
  · subst_vars
    exact m.find_write_same b x
  · exact m.find_write_other x ‹_›

theorem Memory.mem_write {m : Memory} {a : Nat} {x : Sample} {c : Nat × Sample} (h : c ∈ m.write a x) :
    c = (a, x) ∨ c ∈ m := by
  induction m with
  | nil => exact .inl (by simpa [Memory.write] using h)
  | cons d m ih =>
    obtain ⟨b, y⟩ := d
    unfold Memory.write at h
    split at h
    · simpa using h
    · split at h
      · rcases List.mem_cons.mp h with h | h
        · exact .inl h
        · exact .inr (List.mem_cons_of_mem _ h)
      · rcases List.mem_cons.mp h with h | h
        · exact .inr (h ▸ List.mem_cons_self)
        · exact (ih h).imp id (List.mem_cons_of_mem _)

/-- A write keeps the canonical form. -/
theorem Memory.wf_write {m : Memory} (a : Nat) (x : Sample) (h : m.wf) : (m.write a x).wf := by
  induction m with
  | nil => simp [Memory.write, Memory.wf]
  | cons d m ih =>
    obtain ⟨b, y⟩ := d
    obtain ⟨hb, hm⟩ := List.pairwise_cons.mp h
    unfold Memory.write
    split
    · refine List.pairwise_cons.mpr ⟨fun c hc => ?_, h⟩
      rcases List.mem_cons.mp hc with rfl | hc
      · assumption
      · exact lt_trans ‹a < b› (hb c hc)
    · split
      · subst_vars
        exact List.pairwise_cons.mpr ⟨hb, hm⟩
      · refine List.pairwise_cons.mpr ⟨fun c hc => ?_, ih hm⟩
        rcases Memory.mem_write hc with rfl | hc
        · show b < a
          omega
        · exact hb c hc

theorem Memory.wf_writeList {xs : List Sample} {m : Memory} {a : Nat} (h : m.wf) :
    (m.writeList a xs).wf := by
  induction xs generalizing m a with
  | nil => exact h
  | cons x xs ih => exact ih (Memory.wf_write a x h)

theorem Memory.mem_writeList {xs : List Sample} {m : Memory} {a : Nat} {c : Nat × Sample}
    (h : c ∈ m.writeList a xs) : (a ≤ c.1 ∧ c.1 < a + xs.length) ∨ c ∈ m := by
  induction xs generalizing m a with
  | nil => exact .inr h
  | cons x xs ih =>
    rcases ih h with h | h
    · exact .inl ⟨by omega, by simp; omega⟩
    · rcases Memory.mem_write h with rfl | h
      · exact .inl ⟨le_refl _, by simp⟩
      · exact .inr h

theorem Memory.find_writeList_outside {xs : List Sample} {m : Memory} {a b : Nat}
    (h : b < a ∨ a + xs.length ≤ b) : (m.writeList a xs).find b = m.find b := by
  induction xs generalizing m a with
  | nil => rfl
  | cons x xs ih =>
    simp only [List.length_cons] at h
    exact (ih (by omega)).trans (m.find_write_other x (by omega))

theorem Memory.find_writeList_inside {xs : List Sample} {m : Memory} {a i : Nat} (h : i < xs.length) :
    (m.writeList a xs).find (a + i) = some xs[i] := by
  induction xs generalizing m a i with
  | nil => simp at h
  | cons x xs ih =>
    cases i with
    | zero =>
      show ((m.write a x).writeList (a + 1) xs).find a = some x
      rw [Memory.find_writeList_outside (.inl (by omega)), Memory.find_write_same]
    | succ i =>
      have := ih (m := m.write a x) (a := a + 1) (i := i) (by simpa using h)
      simpa [Memory.writeList, Nat.add_assoc, Nat.add_comm 1 i] using this

theorem Memory.writeList_append (xs ys : List Sample) (m : Memory) (a : Nat) :
    m.writeList a (xs ++ ys) = (m.writeList a xs).writeList (a + xs.length) ys := by
  induction xs generalizing m a with
  | nil => rfl
  | cons x xs ih =>
    simp only [List.cons_append, Memory.writeList, ih, List.length_cons]
    congr 1
    omega

/-- The storage arrays of the state after reset are canonical. -/
theorem State.reset_wf : State.reset.store.wf ∧ State.reset.pend.wf := ⟨List.Pairwise.nil, List.Pairwise.nil⟩

/-- A push keeps the canonical form of `Store`, and the update after an `Enqueue` that of `Pend`. -/
theorem State.pushSample_wf {s : State} (x : Sample) (h : s.store.wf) : (s.pushSample x).store.wf :=
  Memory.wf_write _ _ h

theorem State.setPending_wf {s : State} (xs : List Sample) (h : s.pend.wf) : (s.setPending xs).pend.wf :=
  Memory.wf_writeList h

@[simp] theorem State.pending_length (s : State) : s.pending.length = s.pendLen.toNat := by
  simp [State.pending]

/-- After the update that follows an `Enqueue`, exactly the given tail is pending. -/
theorem State.setPending_pending (s : State) {xs : List Sample} (h : xs.length < 2 ^ 32) :
    (s.setPending xs).pending = xs := by
  refine List.ext_getElem (by simpa using h) fun i h1 h2 => ?_
  have := Memory.find_writeList_inside (m := s.pend) (a := 0) h2
  simp only [Nat.zero_add] at this
  simp [State.pending, State.readPend, this]

/-! ### The response -/

/-- `respond` ends the oldest command of `s.port` and gives it one response. -/
theorem State.respond_answered (st : Status) (count : BitVec 32) (data : BitVec 64) (xs : List Sample)
    (s : State) : s.Answered (s.respond st count data xs) s.port ⟨st, count, data, xs⟩ := by
  refine ⟨?_, ?_, fun q hq => ?_⟩
  · cases h : s.port <;> simp [State.inbox, h]
  · cases h : s.port <;> simp [State.outbox, h]
  · cases q <;> simp [State.inbox, State.outbox, Ne.symm hq]

@[simp] theorem State.respond_block (st : Status) (count : BitVec 32) (data : BitVec 64)
    (xs : List Sample) (s : State) : (s.respond st count data xs).block = s.block := rfl

@[simp] theorem State.takeTurn_block (s : State) : s.takeTurn.block = s.block := by
  unfold State.takeTurn
  split <;> rfl

@[simp] theorem State.takeTurn_inbox (s : State) (p : Port) : s.takeTurn.inbox p = s.inbox p := by
  cases p <;> simp [State.inbox]

@[simp] theorem State.takeTurn_outbox (s : State) (p : Port) : s.takeTurn.outbox p = s.outbox p := by
  cases p <;> simp [State.outbox]

/-! ### The ring -/

/-- The capacity of a legal configuration is positive and fits 32 bits. -/
theorem Config.capacity_of_legal {c : Config} (h : c.Legal) : 0 < c.capacity ∧ c.capacity ≤ 2 ^ 32 := by
  obtain ⟨-, h, -⟩ := h
  unfold Config.RingLegal at h
  omega

theorem toNat_ofNat_mod {c : Nat} (n : Nat) (h0 : 0 < c) (h1 : c ≤ 2 ^ 32) :
    (BitVec.ofNat 32 (n % c)).toNat = n % c := by
  rw [BitVec.toNat_ofNat]
  exact Nat.mod_eq_of_lt (lt_of_lt_of_le (Nat.mod_lt _ h0) h1)

/-- The two cursors and the occupancy: `WPTR` is `occupancy()` cells after `RPTR`. -/
theorem State.rptr_add_occupancy {s : State} (hc : 0 < s.cfg.capacity) :
    (s.rptr.toNat + s.occupancy) % s.cfg.capacity = s.wptr.toNat % s.cfg.capacity :=
  add_modSub _ _ hc

/-- With room in the ring, the occupancy that counts the new sample is one more (41_ring_buffer.md R161). -/
theorem State.occupancy_counting_new {s : State} (hc : 0 < s.cfg.capacity)
    (h : s.occupancy + 1 < s.cfg.capacity) :
    modSub (s.wptr.toNat + 1) s.rptr.toNat s.cfg.capacity = s.occupancy + 1 := by
  refine modSub_unique h ?_
  have := s.rptr_add_occupancy hc
  rw [← Nat.add_assoc, Nat.add_mod, this, ← Nat.add_mod]

/-- With the occupancy within `DROP_HWM`, a push drops one sample exactly when the ring is at it (R161). -/
theorem State.dropsOnPush_eq {s : State} (hl : s.cfg.Legal) (h : s.occupancy ≤ s.cfg.dropHwm) :
    s.dropsOnPush = if s.occupancy = s.cfg.dropHwm then 1 else 0 := by
  have hr := hl.2.1
  unfold Config.RingLegal at hr
  have := s.occupancy_counting_new (by omega) (by omega)
  unfold State.dropsOnPush
  rw [this]
  split <;> split <;> omega

/-- `RPTR` after a push is `dropsOnPush` cells further. -/
theorem State.pushSample_rptr_toNat {s : State} (x : Sample) (hl : s.cfg.Legal)
    (hr : s.rptr.toNat < s.cfg.capacity) :
    (s.pushSample x).rptr.toNat = (s.rptr.toNat + s.dropsOnPush) % s.cfg.capacity := by
  obtain ⟨h0, h1⟩ := Config.capacity_of_legal hl
  rw [State.pushSample_rptr]
  split
  · rename_i h
    rw [h, Nat.add_zero, Nat.mod_eq_of_lt hr]
  · exact toNat_ofNat_mod _ h0 h1

theorem State.pushSample_wptr_toNat {s : State} (x : Sample) (hl : s.cfg.Legal) :
    (s.pushSample x).wptr.toNat = (s.wptr.toNat + 1) % s.cfg.capacity := by
  obtain ⟨h0, h1⟩ := Config.capacity_of_legal hl
  exact toNat_ofNat_mod _ h0 h1

/-- The occupancy after a push (R161, R163). -/
theorem State.pushSample_occupancy {s : State} (x : Sample) (hl : s.cfg.Legal)
    (hr : s.rptr.toNat < s.cfg.capacity) (h : s.occupancy ≤ s.cfg.dropHwm) :
    (s.pushSample x).occupancy = s.occupancy + 1 - s.dropsOnPush := by
  obtain ⟨h0, h1⟩ := Config.capacity_of_legal hl
  have hring := hl.2.1
  unfold Config.RingLegal at hring
  have hd : s.dropsOnPush ≤ 1 := by rw [State.dropsOnPush_eq hl h]; split <;> omega
  have hs := s.rptr_add_occupancy h0
  refine modSub_unique (by rw [State.pushSample_cfg]; omega) ?_
  rw [State.pushSample_rptr_toNat x hl hr, State.pushSample_wptr_toNat x hl, State.pushSample_cfg,
    Nat.mod_add_mod, Nat.mod_mod, Nat.add_assoc]
  rw [show s.dropsOnPush + (s.occupancy + 1 - s.dropsOnPush) = s.occupancy + 1 by omega, ← Nat.add_assoc,
    Nat.add_mod, hs, ← Nat.add_mod]

/-- The cell a push writes is outside the live region (20_memory.md R74). -/
theorem State.live_cell_ne_wptr {s : State} (hw : s.wptr.toNat < s.cfg.capacity) {i : Nat}
    (hi : i < s.occupancy) : (s.rptr.toNat + i) % s.cfg.capacity ≠ s.wptr.toNat := by
  intro h
  have hc : 0 < s.cfg.capacity := by omega
  have h1 : s.occupancy < s.cfg.capacity := modSub_lt _ _ hc
  have : s.occupancy = i := modSub_unique (by omega) (h.trans (Nat.mod_eq_of_lt hw).symm)
  omega

/-! ### The pop transaction -/

/-- The cell a claim begins at is at most `DROP_HWM` drops behind: `RPTR` is `dropsSinceClaim` cells
after it. -/
theorem State.ctR0_add_dropsSinceClaim {s : State} (hr : s.rptr.toNat < s.cfg.capacity) :
    (s.ctR0.toNat + s.dropsSinceClaim) % s.cfg.capacity = s.rptr.toNat :=
  (add_modSub _ _ (by omega)).trans (Nat.mod_eq_of_lt hr)

theorem State.popCommit_rptr_toNat {s : State} (hl : s.cfg.Legal) :
    s.popCommit.rptr.toNat =
      (s.ctR0.toNat + max s.ctK.toNat s.dropsSinceClaim) % s.cfg.capacity := by
  obtain ⟨h0, h1⟩ := Config.capacity_of_legal hl
  exact toNat_ofNat_mod _ h0 h1

/-- `RPTR` after the commit is `k - d` cells further, or where the producer's drops left it (R166). -/
theorem State.popCommit_rptr_of_rptr {s : State} (hl : s.cfg.Legal)
    (hr : s.rptr.toNat < s.cfg.capacity) :
    s.popCommit.rptr.toNat =
      (s.rptr.toNat + (s.ctK.toNat - s.dropsSinceClaim)) % s.cfg.capacity := by
  have h := State.ctR0_add_dropsSinceClaim hr
  rw [State.popCommit_rptr_toNat hl,
    show max s.ctK.toNat s.dropsSinceClaim = s.dropsSinceClaim + (s.ctK.toNat - s.dropsSinceClaim) by omega,
    ← Nat.add_assoc, ← Nat.mod_add_mod, h]

/-- The occupancy after the commit (R166). -/
theorem State.popCommit_occupancy {s : State} (hl : s.cfg.Legal) (hr : s.rptr.toNat < s.cfg.capacity)
    (hk : s.ctK.toNat ≤ s.occupancy) :
    s.popCommit.occupancy = s.occupancy - (s.ctK.toNat - s.dropsSinceClaim) := by
  obtain ⟨h0, h1⟩ := Config.capacity_of_legal hl
  have hlt : s.occupancy < s.cfg.capacity := modSub_lt _ _ h0
  have hs := s.rptr_add_occupancy h0
  refine modSub_unique (by rw [State.popCommit_cfg]; omega) ?_
  rw [State.popCommit_rptr_of_rptr hl hr, State.popCommit_cfg, State.popCommit_wptr, Nat.mod_add_mod,
    Nat.add_assoc]
  rw [show s.ctK.toNat - s.dropsSinceClaim + (s.occupancy - (s.ctK.toNat - s.dropsSinceClaim))
    = s.occupancy by omega, hs]

/-! ### The sink -/

/-- The sink takes at most what it is offered (43_output_pump.md R230). -/
theorem State.nextAccept_le (n : Nat) (s : State) : s.nextAccept n ≤ n := by
  unfold State.nextAccept
  split <;> exact min_le_right _ _

/-! ### The clamp -/

/-- Every clamped value is in `[CPS_MIN, CPS_MAX]` (42_rate_adapter.md R202). -/
theorem clampCps_toNat {c : Config} (hl : c.Legal) (x : Int) :
    ((clampCps c x).toNat : Int) = min (max x c.cpsMin) c.cpsMax := by
  have h := hl.2.2.2.1
  unfold Config.CpsLegal at h
  unfold clampCps
  rw [BitVec.toNat_ofInt]
  have h0 : 0 ≤ min (max x (c.cpsMin : Int)) c.cpsMax := by omega
  have h1 : min (max x (c.cpsMin : Int)) c.cpsMax < ((2 ^ 32 : Nat) : Int) := by omega
  rw [Int.emod_eq_of_lt h0 h1, Int.toNat_of_nonneg h0]

theorem clampCps_range {c : Config} (hl : c.Legal) (x : Int) :
    c.cpsMin ≤ (clampCps c x).toNat ∧ (clampCps c x).toNat ≤ c.cpsMax := by
  have h := hl.2.2.2.1
  unfold Config.CpsLegal at h
  have := clampCps_toNat hl x
  omega

/-- What RATE_ADJUST does to `CPS` (R200). -/
theorem State.rateAdjust_cps_eq (v : Nat) (s : State) :
    (s.rateAdjust v).cps =
      if v < s.cfg.rateLwm then clampCps s.cfg ((s.cps.toNat : Int) - (s.cfg.cpsStep : Int))
      else if s.cfg.rateHwm < v then clampCps s.cfg ((s.cps.toNat : Int) + (s.cfg.cpsStep : Int))
      else s.cps := by
  unfold State.rateAdjust
  split
  · rfl
  · split <;> rfl

end Machine

end Sys2Proof
end

