-- ==== Sys2Proof/Laws/PerInstr.lean ====
section
/-! SUPPORT. What holds of every instruction as syntax, one lemma per constructor. -/

namespace Sys2Proof.Laws.EncodingFields

/-- The encoded word has the instruction's opcode, which R103 defines, `RSV = 0`, and the operands in
`FLG` and `IMM` (30_encoding.md R100, R102, R103). -/
def Statement (i : Instr) : Prop :=
  opcField (encode i) = i.opcode ∧ i.opcode ∈ definedOpcodes ∧ rsvField (encode i) = 0 ∧
    flgField (encode i) = i.flg ∧ immField (encode i) = i.imm

/-- The fields of a packed word, with the opcode left to be looked up. -/
theorem of_opcode {i : Instr} (h : i.opcode ∈ definedOpcodes) : Statement i :=
  ⟨opcField_packWord _ _ _ _, h, rsvField_packWord _ _ _ _, flgField_packWord _ _ _ _,
    immField_packWord _ _ _ _⟩

theorem cycle (t : Bool) : Statement (.cycle t) := of_opcode (by simp [Instr.opcode, definedOpcodes])
theorem push (w : Sample) : Statement (.push w) := of_opcode (by simp [Instr.opcode, definedOpcodes])
theorem popBlock (n : BitVec 32) : Statement (.popBlock n) :=
  of_opcode (by simp [Instr.opcode, definedOpcodes])
theorem occupancy : Statement .occupancy := of_opcode (by simp [Instr.opcode, definedOpcodes])
theorem pump : Statement .pump := of_opcode (by simp [Instr.opcode, definedOpcodes])
theorem readReg (r : BitVec 32) : Statement (.readReg r) :=
  of_opcode (by simp [Instr.opcode, definedOpcodes])
theorem initializeBlock : Statement .initializeBlock := of_opcode (by simp [Instr.opcode, definedOpcodes])
theorem beginPlay : Statement .beginPlay := of_opcode (by simp [Instr.opcode, definedOpcodes])
theorem stopPlay : Statement .stopPlay := of_opcode (by simp [Instr.opcode, definedOpcodes])
theorem enable : Statement .enable := of_opcode (by simp [Instr.opcode, definedOpcodes])
theorem disable : Statement .disable := of_opcode (by simp [Instr.opcode, definedOpcodes])
theorem isPlaying : Statement .isPlaying := of_opcode (by simp [Instr.opcode, definedOpcodes])
theorem exportRecord : Statement .exportRecord := of_opcode (by simp [Instr.opcode, definedOpcodes])
theorem importRecord (ev en cv : Bool) (cps : BitVec 32) : Statement (.importRecord ev en cv cps) :=
  of_opcode (by simp [Instr.opcode, definedOpcodes])
theorem destroy : Statement .destroy := of_opcode (by simp [Instr.opcode, definedOpcodes])

end Sys2Proof.Laws.EncodingFields
end

