-- ==== Sys2Proof/Laws/Step.lean ====
section
/-! SUPPORT. What a step can do, once: the turn, the three cases of an action, and the small facts about
configurations, runs and the live region that proofs about steps cite. -/

namespace Sys2Proof

/-- The bounds of 00_scope.md R8 in one place. -/
theorem Config.bounds_of_legal {c : Config} (hl : c.Legal) :
    c.fracBits ≤ 16 ∧ 1 ≤ c.unit ∧ c.unit ≤ 65536 ∧
    1 ≤ c.block ∧ c.block ≤ c.dropHwm ∧ c.dropHwm + 2 ≤ c.capacity ∧ c.capacity ≤ 4294967296 ∧
    1 ≤ c.pushThreshold ∧ c.pushThreshold ≤ c.dropHwm ∧
    c.unit + 1 ≤ c.cpsMin ∧ c.cpsMin ≤ c.cpsNominal ∧ c.cpsNominal ≤ c.cpsMax ∧ c.cpsMax ≤ 4294967295 ∧
    1 ≤ c.cpsStep ∧ c.cpsStep + c.unit ≤ c.cpsMin ∧
    c.rateLwm < c.rateHwm ∧ c.rateHwm < c.dropHwm := by
  obtain ⟨h1, h2, h3, h4, h5, h6⟩ := hl
  unfold Config.FracBitsLegal at h1
  unfold Config.RingLegal at h2
  unfold Config.ThresholdLegal at h3
  unfold Config.CpsLegal at h4
  unfold Config.StepLegal at h5
  unfold Config.MarksLegal at h6
  have : c.unit ≤ 65536 := Nat.pow_le_pow_right (n := 2) (by omega) h1
  have : 1 ≤ c.unit := Nat.one_le_two_pow
  omega

/-- A port that decodes a word is one R103 lists for the instruction (30_encoding.md R106, R109). -/
theorem port_mem_of_decode {q : Port} {w : CommandWord} {i : Instr} (h : decode q w = .ok i) :
    decodeWord w = .ok i ∧ q ∈ i.ports := by
  unfold decode at h
  split at h
  · cases h
  · split at h
    · cases h
      exact ⟨‹_›, ‹_›⟩
    · cases h

namespace Machine

/-- Every instruction has a next state, whatever the state (60_exceptions.md R300). -/
theorem exec_next (i : Instr) (s : State) : ∃ t, exec i s = .next t := by
  cases i <;> exact ⟨_, rfl⟩

/-- A listed turn is taken as listed. -/
theorem State.takeTurn_of_schedule {s : State} {q : Port} {later : List Port}
    (h : s.schedule = q :: later) : s.takeTurn = { s with port := q, schedule := later } := by
  unfold State.takeTurn
  rw [h]

/-- What a step does when it answers a next state: the port whose turn it is had no command, an illegal
one, or a legal one whose action `exec` performed. -/
theorem step_cases {s t : State} (h : step s = .next t) :
    s.cfg.Legal ∧
    ((s.inbox s.takeTurn.port = [] ∧ t = s.takeTurn) ∨
      ∃ w ws, s.inbox s.takeTurn.port = w :: ws ∧
        ((∃ e, decode s.takeTurn.port w = .error e ∧ t = s.takeTurn.respondIllegal) ∨
          ∃ i, decode s.takeTurn.port w = .ok i ∧ s.takeTurn.port ∈ i.ports ∧
            exec i s.takeTurn = .next t)) := by
  unfold step State.stepAction at h
  split at h
  · refine ⟨‹_›, ?_⟩
    unfold State.act at h
    rw [State.takeTurn_inbox] at h
    split at h
    · injection h with h
      exact .inl ⟨‹_›, h.symm⟩
    · rename_i w ws hw
      refine .inr ⟨w, ws, hw, ?_⟩
      split at h
      · rename_i e he
        injection h with h
        exact .inl ⟨e, he, h.symm⟩
      · rename_i i hi
        exact .inr ⟨i, hi, (port_mem_of_decode hi).2, h⟩
  · cases h

/-- One more action in front of a run. -/
theorem actions_succ {i : Instr} {n : Nat} {s u : State} (h : exec i s = .next u) :
    actions i (n + 1) s = actions i n u := by
  rw [actions, h]

/-- Two runs in a row. -/
theorem actions_add {i : Instr} {m n : Nat} {s t : State} (h : actions i m s = .next t) :
    actions i (m + n) s = actions i n t := by
  induction m generalizing s with
  | zero =>
    injection h with h
    rw [h, Nat.zero_add]
  | succ m ih =>
    obtain ⟨u, hu⟩ := exec_next i s
    rw [actions_succ hu] at h
    rw [Nat.add_right_comm, actions_succ hu, ih h]

/-- One more CYCLE in front of a run. -/
theorem cycles_cons {b : Bool} {ts : List Bool} {s u : State} (h : exec (.cycle b) s = .next u) :
    cycles (b :: ts) s = cycles ts u := by
  rw [cycles, h]

@[simp] theorem State.live_length (s : State) : s.live.length = s.occupancy := by
  simp [State.live]

/-- The unread samples one by one (20_memory.md R74). -/
theorem State.live_getElem (s : State) {i : Nat} (h : i < s.live.length) :
    s.live[i] = s.readStore ((s.rptr.toNat + i) % s.cfg.capacity) := by
  simp [State.live]

/-- The claimed count fits its register (41_ring_buffer.md R165). -/
theorem State.popClaim_ctK_toNat {s : State} (hl : s.cfg.Legal) (h : s.occupancy ≤ s.cfg.dropHwm) (n : Nat) :
    (s.popClaim n).ctK.toNat = min n s.occupancy := by
  have := Config.bounds_of_legal hl
  show (BitVec.ofNat 32 (min n s.occupancy)).toNat = _
  rw [BitVec.toNat_ofNat, Nat.mod_eq_of_lt (by omega)]

end Machine

end Sys2Proof
end

