-- ==== Sys2Proof/Tests/Slice0.lean ====
section
/-! SUPPORT. The model's own tests. Expected values come from the spec: the worked encodings of
30_encoding.md R112, the examples of the command rules and the vectors of 95_test_vectors.md. -/

namespace Sys2Proof.Tests

open Sys2Proof.Machine

/-! ### Decoding: one word per command, written from the tables of R103 -/

theorem test_decode_cycle : decode .producer 0x0100000000000000 = .ok (.cycle false) := by decide
theorem test_decode_cycle_toggle : decode .producer 0x0100000100000000 = .ok (.cycle true) := by decide
theorem test_decode_push : decode .producer 0x020000003F800000 = .ok (.push 0x3F800000) := by decide
theorem test_decode_popBlock : decode .consumer 0x0300000000000004 = .ok (.popBlock 4) := by decide
theorem test_decode_occupancy : decode .producer 0x0400000000000000 = .ok .occupancy := by decide
theorem test_decode_pump : decode .consumer 0x0500000000000000 = .ok .pump := by decide
theorem test_decode_readReg : decode .host 0x0600000000000004 = .ok (.readReg 4) := by decide
theorem test_decode_initialize : decode .host 0x1000000000000000 = .ok .initializeBlock := by decide
theorem test_decode_beginPlay : decode .host 0x1100000000000000 = .ok .beginPlay := by decide
theorem test_decode_stopPlay : decode .host 0x1200000000000000 = .ok .stopPlay := by decide
theorem test_decode_enable : decode .host 0x1300000000000000 = .ok .enable := by decide
theorem test_decode_disable : decode .host 0x1400000000000000 = .ok .disable := by decide
theorem test_decode_isPlaying : decode .host 0x1500000000000000 = .ok .isPlaying := by decide
theorem test_decode_export : decode .host 0x1600000000000000 = .ok .exportRecord := by decide
theorem test_decode_import :
    decode .host 0x17000005000A0000 = .ok (.importRecord true false true 0x000A0000) := by decide
theorem test_decode_import_en :
    decode .host 0x1700000200000000 = .ok (.importRecord false true false 0) := by decide
theorem test_decode_destroy : decode .host 0x1800000000000000 = .ok .destroy := by decide
theorem test_decode_table_word : decodeTableWord 64 0x0300000000000004 = some (.popBlock 4) := by decide

/-- R112 and R104: `FLG[1]` of CYCLE is not named. -/
theorem test_decode_flg : decode .producer 0x0100000200000000 = .error .fieldNotZero := by decide
theorem test_decode_rsv : decode .producer 0x0200001000000000 = .error .fieldNotZero := by decide
theorem test_decode_imm : decode .consumer 0x0500000000000001 = .error .fieldNotZero := by decide
theorem test_decode_zero : decode .producer 0 = .error .undefinedOpcode := by decide
theorem test_decode_port : decode .consumer 0x0100000000000000 = .error .wrongPort := by decide

/-! ### WellFormed: an ill-formed term for each check -/

theorem test_ref_legal : Config.ref.Legal := by decide
theorem test_powerOn_legal : Config.powerOn.Legal := by decide
theorem test_illegal_fracBits : ¬ Config.FracBitsLegal { Config.ref with fracBits := 17 } := by decide
theorem test_illegal_block : ¬ Config.RingLegal { Config.ref with block := 0 } := by decide
theorem test_illegal_dropHwm : ¬ Config.RingLegal { Config.ref with dropHwm := 3 } := by decide
theorem test_illegal_capacity : ¬ Config.RingLegal { Config.ref with capacity := 9 } := by decide
theorem test_illegal_big : ¬ Config.RingLegal { Config.ref with capacity := 4294967297 } := by decide
theorem test_illegal_threshold : ¬ Config.ThresholdLegal { Config.ref with pushThreshold := 9 } := by decide
theorem test_illegal_threshold_zero : ¬ Config.ThresholdLegal { Config.ref with pushThreshold := 0 } := by decide
theorem test_illegal_cpsMin : ¬ Config.CpsLegal { Config.ref with cpsMin := 1 } := by decide
theorem test_illegal_cpsNominal : ¬ Config.CpsLegal { Config.ref with cpsNominal := 21 } := by decide
theorem test_illegal_cpsMax : ¬ Config.CpsLegal { Config.ref with cpsMax := 4294967296 } := by decide
theorem test_illegal_step : ¬ Config.StepLegal { Config.ref with cpsStep := 5 } := by decide
theorem test_illegal_step_zero : ¬ Config.StepLegal { Config.ref with cpsStep := 0 } := by decide
theorem test_illegal_marks : ¬ Config.MarksLegal { Config.ref with rateLwm := 6 } := by decide
theorem test_illegal_hwm : ¬ Config.MarksLegal { Config.ref with rateHwm := 8 } := by decide
theorem test_wrong_port_ill_formed : ¬ Command.WellFormed ⟨.consumer, .cycle true⟩ := by decide

/-! ### Small states -/

/-- The state a step or a meaning leads to. -/
def after : Outcome → State
  | .next t => t
  | .fault f => nomatch f
  | .refused _ => State.reset

/-- "Playing" of 95_test_vectors.md: REF, initialized, `LIFE = PLAYING`. -/
def playing : State := { State.powerOn Config.ref with life := .playing }

/-- "Fresh" of 95_test_vectors.md: REF, initialized, `LIFE = STOPPED`. -/
def fresh : State := { State.powerOn Config.ref with life := .stopped }

/-- "Ring holding k": the words 0x100 on, from cell 0. -/
def holding (k : Nat) (s : State) : State :=
  { s with
    store := (List.range k).map fun i => (i, BitVec.ofNat 32 (0x100 + i))
    wptr := BitVec.ofNat 32 k }

/-- The word `w` is the one command of port `q`, and that port has the next turn. -/
def given (q : Port) (w : CommandWord) (s : State) : State :=
  { s with
    inP := if q = .producer then [w] else []
    inC := if q = .consumer then [w] else []
    inH := if q = .host then [w] else []
    port := q
    schedule := [q] }

/-- A POP_BLOCK past its claim of `k` samples, of which it has copied `out`; its word waits on port C. -/
def popping (k : Nat) (out : List Sample) (s : State) : State :=
  { given .consumer 0x0300000000000003 s with
    ctActive := true
    ctK := BitVec.ofNat 32 k
    ctOut := out
    flight := .pop }

/-- A PUMP in flight at `p`, with `occ` samples counted and the gate as given. -/
def pumping (fwd : Bool) (occ : BitVec 32) (p : PumpPoint) (s : State) : State :=
  { given .consumer 0x0500000000000000 s with flight := .pump ⟨fwd, occ, 0, false, false, p⟩ }

/-- The same state after DESTROY. -/
def destroyed (s : State) : State := { s with life := .destroyed }

/-! ### One step of each command -/

/-- L1.1, H = 3: the tenth CYCLE pushes -2/5. -/
theorem test_cycle_emits :
    (after (exec (.cycle false) { fresh with elapsed := 9, highacc := 3 })).store = [(0, 0xBECCCCCD)] := by
  decide

/-- R131: the toggling cycle counts at the new level. -/
theorem test_cycle_toggles_first :
    ((after (exec (.cycle true) fresh)).high, (after (exec (.cycle true) fresh)).highacc) = (true, 1) := by
  decide

/-- L1.3: the ninth PUSH drops one. -/
theorem test_push_drops :
    (after (exec (.push 8) (holding 8 (given .producer 0x0200000000000008 fresh)))).outP = [⟨.ok, 1, 1, []⟩] := by
  decide

/-- R162's example. -/
theorem test_push_example :
    ((after (exec (.push 0x3F800000) fresh)).wptr, (after (exec (.push 0x3F800000) fresh)).occupancy) = (1, 1) := by
  decide

/-- R165: the claim of POP_BLOCK 3 with two samples takes two. -/
theorem test_popBlock_claims : (after (exec (.popBlock 3) (holding 2 fresh))).ctK = 2 := by decide

/-- R165's example: POP_BLOCK 3 of four samples leaves `RPTR = 3`. -/
theorem test_popBlock_commits :
    (after (exec (.popBlock 3) (popping 3 [0x100, 0x101, 0x102] (holding 4 fresh)))).outC
      = [⟨.ok, 3, 0, [0x100, 0x101, 0x102]⟩] := by
  decide

theorem test_occupancy :
    (after (exec .occupancy (holding 5 (given .host 0x0400000000000000 fresh)))).outH = [⟨.ok, 0, 5, []⟩] := by
  decide

/-- R220: 5 samples are above the threshold 4. -/
theorem test_pump_starts :
    (after (exec .pump (holding 5 playing))).flight = .pump ⟨true, 5, 0, false, false, .claim⟩ := by
  decide

/-- R224: of four samples the sink takes one; three are pending in order. -/
theorem test_pump_partial :
    (after (exec .pump { pumping true 5 (.offerBlock [1, 2, 3, 4]) playing with sinkAccepts := [1] })).pend
      = [(0, 2), (1, 3), (2, 4)] := by
  decide

/-- R262's example. -/
theorem test_readReg_cps :
    (after (exec (.readReg 1) (given .host 0x0600000000000001 fresh))).outH = [⟨.ok, 0, 10, []⟩] := by decide

theorem test_readReg_unassigned :
    (after (exec (.readReg 8) (given .host 0x0600000000000008 fresh))).outH = [⟨.illegal, 0, 0, []⟩] := by
  decide

/-- R251's example. -/
theorem test_initialize :
    after (exec .initializeBlock { State.powerOn Config.ref with sinkOpens := [true] })
      = { fresh with
          outP := [⟨.ok, 0, 0, []⟩]
          sinkCalls := [.openSink 44100 1 .binary32 true] } := by
  decide

/-- R334: a failed `Open` leaves UNINIT. -/
theorem test_initialize_fails :
    (after (exec .initializeBlock { State.powerOn Config.ref with sinkOpens := [false] })).life = .uninit := by
  decide

theorem test_beginPlay : (after (exec .beginPlay fresh)).life = .playing := by decide
theorem test_stopPlay : (after (exec .stopPlay playing)).life = .stopped := by decide
theorem test_enable : (after (exec .enable { fresh with enabled := false })).enabled = true := by decide
theorem test_disable : (after (exec .disable fresh)).enabled = false := by decide

/-- R256: a muted block that is PLAYING answers 1. -/
theorem test_isPlaying :
    (after (exec .isPlaying { given .host 0x1500000000000000 playing with enabled := false })).outH
      = [⟨.ok, 0, 1, []⟩] := by
  decide

/-- R259's example. -/
theorem test_export :
    (after (exec .exportRecord (given .host 0x1600000000000000 fresh))).outH = [⟨.ok, 0, 0x10000000A, []⟩] := by
  decide

/-- R260's example: `IMPORT en=0, cps=0` gives `ENABLED = 0`, `CPS = 5`. -/
theorem test_import_clamps :
    ((after (exec (.importRecord true false true 0) fresh)).enabled,
      (after (exec (.importRecord true false true 0) fresh)).cps) = (false, 5) := by
  decide

/-- R260: absent fields get their defaults. -/
theorem test_import_defaults :
    (after (exec (.importRecord false false false 0) { fresh with cps := 7, enabled := false })).record
      = 0x10000000A := by
  decide

/-- R257's example. -/
theorem test_destroy : (after (exec .destroy playing)).sinkCalls = [.close] := by decide

/-- L1.1's word for 0 and R134's words for +1 and -1, and ties and signs of 95_test_vectors.md section 0. -/
theorem test_toSample :
    (toSample 0, toSample 1, toSample (-1), toSample (mkRat 1 3), toSample (mkRat (-4) 5))
      = (0x00000000, 0x3F800000, 0xBF800000, 0x3EAAAAAB, 0xBF4CCCCD) := by
  decide

/-- `withFetchWord` puts a word where the next step takes it. -/
theorem test_fetch :
    step (State.reset.withFetchWord 64 0x1500000000000000)
      = exec .isPlaying { State.reset with port := .host, inH := [0x1500000000000000] } := rfl

/-! ### Good states -/

/-- The clauses of `State.Inv` about the data, for a state whose clauses about flights are shown apart. -/
abbrev DataOk (s : State) : Prop :=
  s.cfg.Legal ∧ (s.cfg.cpsMin ≤ s.cps.toNat ∧ s.cps.toNat ≤ s.cfg.cpsMax) ∧
  s.wptr.toNat < s.cfg.capacity ∧ s.rptr.toNat < s.cfg.capacity ∧ s.occupancy ≤ s.cfg.dropHwm ∧
  s.pendLen.toNat ≤ s.cfg.block ∧ s.highacc.toNat ≤ s.elapsed.toNat ∧
  s.elapsed.toNat < s.cfg.cpsMax + s.cfg.unit ∧
  (s.store.wf ∧ ∀ x ∈ s.store, x.1 < s.cfg.capacity) ∧ (s.pend.wf ∧ ∀ x ∈ s.pend, x.1 < s.cfg.block) ∧
  s.ctActive = s.flight.inPop

theorem inv_idle {s : State} (h : DataOk s) (hf : s.flight = .idle) : s.Inv := by
  obtain ⟨h1, h2, h3, h4, h5, h6, h7, h8, h9, h10, h11⟩ := h
  refine ⟨h1, h2, h3, h4, h5, h6, h7, h8, h9, h10, ?_, ?_, h11, ?_, ?_⟩
  · unfold State.FlightMatches
    rw [hf]
    trivial
  · exact fun h => absurd hf h
  · rw [hf]
    exact fun h => nomatch h
  · rw [hf]
    exact fun l h => nomatch h

theorem inv_pop {s : State} {w : CommandWord} {n : BitVec 32} (h : DataOk s) (hf : s.flight = .pop)
    (hw : s.inC.head? = some w) (hd : decode .consumer w = .ok (.popBlock n)) (hl : s.life ≠ .uninit)
    (hc : s.ctK.toNat ≤ s.occupancy ∧ s.ctR0.toNat < s.cfg.capacity ∧ s.ctOut.length ≤ s.ctK.toNat) :
    s.Inv := by
  obtain ⟨h1, h2, h3, h4, h5, h6, h7, h8, h9, h10, h11⟩ := h
  refine ⟨h1, h2, h3, h4, h5, h6, h7, h8, h9, h10, ?_, fun _ => hl, h11, fun _ => hc, ?_⟩
  · unfold State.FlightMatches
    rw [hf]
    exact ⟨w, n, hw, hd⟩
  · rw [hf]
    exact fun l h => nomatch h

theorem inv_pump {s : State} {w : CommandWord} {l : PumpFlight} (h : DataOk s) (hf : s.flight = .pump l)
    (hw : s.inC.head? = some w) (hd : decode .consumer w = .ok .pump) (hl : s.life ≠ .uninit)
    (hc : s.ctK.toNat ≤ s.occupancy ∧ s.ctR0.toNat < s.cfg.capacity ∧ s.ctOut.length ≤ s.ctK.toNat)
    (hp : s.PumpOk l) : s.Inv := by
  obtain ⟨h1, h2, h3, h4, h5, h6, h7, h8, h9, h10, h11⟩ := h
  refine ⟨h1, h2, h3, h4, h5, h6, h7, h8, h9, h10, ?_, fun _ => hl, h11, fun _ => hc, ?_⟩
  · unfold State.FlightMatches
    rw [hf]
    exact ⟨w, hw, hd⟩
  · intro m hm
    rw [hf] at hm
    injection hm with hm
    exact hm ▸ hp

theorem inv_fresh : fresh.Inv := inv_idle (by decide) rfl
theorem inv_playing : playing.Inv := inv_idle (by decide) rfl
theorem inv_empty : (holding 0 fresh).Inv := inv_idle (by decide) rfl
theorem inv_seven : (holding 7 fresh).Inv := inv_idle (by decide) rfl
theorem inv_full : (holding 8 playing).Inv := inv_idle (by decide) rfl

/-- The ring of `holding 8` one cell further: the producer dropped one sample. -/
def dropped (s : State) : State := { holding 9 s with rptr := 1 }

theorem inv_popping : (popping 3 [] (holding 8 fresh)).Inv :=
  inv_pop (w := 0x0300000000000003) (n := 3) (by decide) rfl rfl (by decide) (by decide) (by decide)

theorem inv_popped : (popping 3 [0x100, 0x101, 0x102] (dropped fresh)).Inv :=
  inv_pop (w := 0x0300000000000003) (n := 3) (by decide) rfl rfl (by decide) (by decide) (by decide)

theorem inv_popped_all_dropped :
    (popping 1 [0x100] { holding 10 fresh with rptr := 2 }).Inv :=
  inv_pop (w := 0x0300000000000003) (n := 3) (by decide) rfl rfl (by decide) (by decide) (by decide)

theorem inv_pump_claim : (pumping true 5 .claim (holding 5 playing)).Inv :=
  inv_pump (w := 0x0500000000000000) (by decide) rfl rfl (by decide) (by decide) (by decide)
    (show 4 < State.occupancy _ by decide)

theorem inv_pump_popping :
    { pumping true 5 .popping (holding 5 playing) with ctActive := true, ctK := 4 }.Inv :=
  inv_pump (w := 0x0500000000000000) (by decide) rfl rfl (by decide) (by decide) (by decide)
    (show 1 ≤ 4 ∧ 4 ≤ 4 by decide)

theorem inv_pump_popped :
    { pumping true 5 .popping (holding 5 playing) with
      ctActive := true, ctK := 4, ctOut := [0x100, 0x101, 0x102, 0x103] }.Inv :=
  inv_pump (w := 0x0500000000000000) (by decide) rfl rfl (by decide) (by decide) (by decide)
    (show 1 ≤ 4 ∧ 4 ≤ 4 by decide)

theorem inv_pump_block : (pumping true 5 (.offerBlock [1, 2, 3, 4]) playing).Inv :=
  inv_pump (w := 0x0500000000000000) (by decide) rfl rfl (by decide) (by decide) (by decide)
    (show true = true ∧ 1 ≤ 4 ∧ 4 ≤ 4 by decide)

theorem inv_pump_pending :
    { pumping true 5 .offerPending playing with pend := [(0, 7)], pendLen := 1 }.Inv :=
  inv_pump (w := 0x0500000000000000) (by decide) rfl rfl (by decide) (by decide) (by decide)
    (show true = true ∧ 1 ≤ 1 by decide)

theorem inv_pump_adjust (occ : BitVec 32) : (pumping true occ (.adjust 0) playing).Inv :=
  inv_pump (w := 0x0500000000000000) (show DataOk (pumping true 0 (.adjust 0) playing) by decide) rfl rfl (by decide)
    (show playing.life ≠ .uninit by decide)
    (show 0 ≤ playing.occupancy ∧ playing.ctR0.toNat < playing.cfg.capacity ∧ 0 ≤ 0 by decide) trivial

/-! ### Witnesses: a concrete state and operands for the hypotheses of every statement -/

theorem witness_EncodeOfDecodeIsTheWord : decode .host 0x1700000700000005 = .ok (.importRecord true true true 5) := by
  decide

/-- The rows of the table, in its order. -/
def row (n : Nat) : TableRow := opcodeTable.getD n ⟨"", 0, 0, []⟩

theorem witness_DecodeFollowsTheMatchMaskTable :
    (row 0 ∈ opcodeTable ∧ (row 0).Selects 0x0100000100000000 ∧ Port.producer ∈ (row 0).ports ∧
      Port.consumer ∉ (row 0).ports) ∧
    (∀ r ∈ opcodeTable, ¬ r.Selects 0x1900000000000000) ∧
    decode .host 0x1900000000000000 = .error .undefinedOpcode := by
  decide

theorem witness_AnsweredIllegal :
    (given .host 0 fresh).cfg.Legal ∧ (given .host 0 fresh).schedule = [.host] ∧
      (given .host 0 fresh).inbox .host = [0] := by
  decide

theorem witness_ReservedFieldsAreIllegal :
    row 13 ∈ opcodeTable ∧ (0x1700000800000000 : BitVec 64).extractLsb' 56 8 = (row 13).pattern.extractLsb' 56 8 ∧
      ¬ (row 13).Selects 0x1700000800000000 := by
  decide

theorem witness_UndefinedOpcodesAreIllegal :
    ((0x00FFFFFFFFFFFFFF : BitVec 64).extractLsb' 56 8).toNat = 0 ∧
    ((0x0700000000000000 : BitVec 64).extractLsb' 56 8).toNat = 7 ∧
    ((0x0F00000000000000 : BitVec 64).extractLsb' 56 8).toNat = 15 ∧
    ((0x1900000000000000 : BitVec 64).extractLsb' 56 8).toNat = 25 := by
  decide

theorem witness_WrongPortIsIllegal :
    row 4 ∈ opcodeTable ∧ (row 4).Selects 0x0500000000000000 ∧ Port.producer ∉ (row 4).ports := by
  decide

theorem witness_StepRunsTheScheduledCommand :
    (given .producer 0x0100000100000000 fresh).cfg.Legal ∧
    (given .producer 0x0100000100000000 fresh).schedule = [.producer] ∧
    (given .producer 0x0100000100000000 fresh).inbox .producer = [0x0100000100000000] ∧
    decode .producer 0x0100000100000000 = .ok (.cycle true) := by
  decide

theorem witness_OnlyIllegalConfigurationsStop :
    fresh.cfg.Legal ∧ ¬ ({ fresh with cfg := { Config.ref with block := 0 } } : State).cfg.Legal := by
  decide

/-- The three clauses: a port without a command; a command answered; a port C command still in flight. -/
theorem witness_EveryCommandEndsWithOneResponse :
    ({ fresh with schedule := [.producer] }.Inv ∧
      step { fresh with schedule := [.producer] } = .next (after (step { fresh with schedule := [.producer] })) ∧
      ({ fresh with schedule := [.producer] } : State).inbox .producer = []) ∧
    ((popping 3 [0x100, 0x101, 0x102] (dropped fresh)).Inv ∧
      step (popping 3 [0x100, 0x101, 0x102] (dropped fresh))
        = .next (after (step (popping 3 [0x100, 0x101, 0x102] (dropped fresh)))) ∧
      (after (step (popping 3 [0x100, 0x101, 0x102] (dropped fresh)))).flight = .idle) ∧
    ((popping 3 [] (holding 8 fresh)).Inv ∧
      step (popping 3 [] (holding 8 fresh)) = .next (after (step (popping 3 [] (holding 8 fresh)))) ∧
      (after (step (popping 3 [] (holding 8 fresh)))).flight = .pop) :=
  ⟨⟨inv_idle (by decide) rfl, rfl, rfl⟩, ⟨inv_popped, rfl, rfl⟩, ⟨inv_popping, rfl, rfl⟩⟩

/-- A POP_BLOCK is in flight while port P has its turn. -/
def busy : State :=
  { popping 3 [] (holding 8 fresh) with inP := [0x0200000000000009], schedule := [.producer] }

theorem witness_ProducerNeverWaits :
    busy.cfg.Legal ∧ busy.schedule = [.producer] ∧ busy.inP = [0x0200000000000009] ∧ busy.flight = .pop := by
  decide

/-- Another port's action; a copy; a claim; a PUMP's first action; the end of a command. -/
theorem witness_PortCCommandsEnd :
    (busy.Inv ∧ step busy = .next (after (step busy)) ∧ busy.takeTurn.port ≠ .consumer) ∧
    ((popping 3 [] (holding 8 fresh)).Inv ∧
      step (popping 3 [] (holding 8 fresh)) = .next (after (step (popping 3 [] (holding 8 fresh)))) ∧
      (after (step (popping 3 [] (holding 8 fresh)))).flight = .pop) ∧
    ((given .consumer 0x0300000000000003 (holding 8 fresh)).Inv ∧
      step (given .consumer 0x0300000000000003 (holding 8 fresh))
        = .next (after (step (given .consumer 0x0300000000000003 (holding 8 fresh)))) ∧
      (after (step (given .consumer 0x0300000000000003 (holding 8 fresh)))).flight = .pop) ∧
    ((given .consumer 0x0500000000000000 (holding 8 fresh)).Inv ∧
      step (given .consumer 0x0500000000000000 (holding 8 fresh))
        = .next (after (step (given .consumer 0x0500000000000000 (holding 8 fresh)))) ∧
      (after (step (given .consumer 0x0500000000000000 (holding 8 fresh)))).flight ≠ .pop) ∧
    ((popping 3 [0x100, 0x101, 0x102] (dropped fresh)).Inv ∧
      step (popping 3 [0x100, 0x101, 0x102] (dropped fresh))
        = .next (after (step (popping 3 [0x100, 0x101, 0x102] (dropped fresh)))) ∧
      (after (step (popping 3 [0x100, 0x101, 0x102] (dropped fresh)))).flight = .idle) :=
  ⟨⟨inv_pop (w := 0x0300000000000003) (n := 3) (by decide) rfl rfl (by decide) (by decide) (by decide), rfl,
      by decide⟩,
    ⟨inv_popping, rfl, rfl⟩, ⟨inv_idle (by decide) rfl, rfl, rfl⟩, ⟨inv_idle (by decide) rfl, rfl, by decide⟩,
    ⟨inv_popped, rfl, rfl⟩⟩

theorem witness_PowerOnState : Config.ref.Legal ∧ Config.powerOn.Legal := by decide

/-- A step of each kind from a good state: an emission, a copy of a pop, an `Enqueue`. -/
theorem witness_StepKeepsTheStateGood :
    ({ given .producer 0x0100000000000000 (holding 8 fresh) with elapsed := 9, highacc := 9 }.Inv ∧
      step { given .producer 0x0100000000000000 (holding 8 fresh) with elapsed := 9, highacc := 9 }
        = .next (after (step
            { given .producer 0x0100000000000000 (holding 8 fresh) with elapsed := 9, highacc := 9 }))) ∧
    ((popping 3 [] (holding 8 fresh)).Inv ∧
      step (popping 3 [] (holding 8 fresh)) = .next (after (step (popping 3 [] (holding 8 fresh))))) ∧
    ((pumping true 5 (.offerBlock [1, 2, 3, 4]) playing).Inv ∧
      step (pumping true 5 (.offerBlock [1, 2, 3, 4]) playing)
        = .next (after (step (pumping true 5 (.offerBlock [1, 2, 3, 4]) playing)))) :=
  ⟨⟨inv_idle (by decide) rfl, rfl⟩, ⟨inv_popping, rfl⟩, ⟨inv_pump_block, rfl⟩⟩

theorem witness_StepKeepsReadableCellsWritten :
    (popping 3 [] (holding 8 fresh)).Inv ∧ (popping 3 [] (holding 8 fresh)).CellsWritten ∧
      step (popping 3 [] (holding 8 fresh)) = .next (after (step (popping 3 [] (holding 8 fresh)))) :=
  ⟨inv_popping,
    ⟨fun i (hi : i < 8) => by revert hi; revert i; decide,
      fun _ i _ (hi : i < 3) => by revert hi; revert i; decide, fun i hi => absurd hi (Nat.not_lt_zero i)⟩,
    rfl⟩

/-- The connection is open in PLAYING, after an `Open` that succeeded. -/
theorem witness_StepKeepsTheSinkProtocol :
    { pumping true 5 (.offerBlock [1, 2, 3, 4]) playing with
      sinkCalls := [.openSink 44100 1 .binary32 true] }.Inv ∧
    { pumping true 5 (.offerBlock [1, 2, 3, 4]) playing with
      sinkCalls := [.openSink 44100 1 .binary32 true] }.SinkProtocol ∧
    step { pumping true 5 (.offerBlock [1, 2, 3, 4]) playing with
        sinkCalls := [.openSink 44100 1 .binary32 true] }
      = .next (after (step { pumping true 5 (.offerBlock [1, 2, 3, 4]) playing with
          sinkCalls := [.openSink 44100 1 .binary32 true] })) :=
  ⟨inv_pump (w := 0x0500000000000000) (by decide) rfl rfl (by decide) (by decide) (by decide)
    (show true = true ∧ 1 ≤ 4 ∧ 4 ≤ 4 by decide), rfl, rfl⟩

/-- A command that changes each register. -/
theorem witness_RegistersChangeOnlyByTheirWriters :
    (after (exec (.importRecord true false true 7) fresh)).cps ≠ fresh.cps ∧
    (after (exec (.importRecord true false true 7) fresh)).enabled ≠ fresh.enabled ∧
    (after (exec (.cycle true) fresh)).elapsed ≠ fresh.elapsed ∧
    (after (exec (.cycle true) fresh)).highacc ≠ fresh.highacc ∧
    (after (exec (.cycle true) fresh)).high ≠ fresh.high ∧
    (after (exec (.push 1) (holding 8 fresh))).wptr ≠ (holding 8 fresh).wptr ∧
    (after (exec (.push 1) (holding 8 fresh))).rptr ≠ (holding 8 fresh).rptr ∧
    (after (exec (.push 1) (holding 8 fresh))).drops ≠ (holding 8 fresh).drops ∧
    (after (exec (.push 1) (holding 8 fresh))).store ≠ (holding 8 fresh).store ∧
    (after (exec .pump { fresh with pendLen := 1 })).pendLen ≠ 1 ∧
    (after (exec .pump { pumping true 5 (.offerBlock [1, 2]) playing with sinkAccepts := [1] })).pend ≠ [] ∧
    (after (exec .beginPlay fresh)).life ≠ fresh.life := by
  decide

theorem witness_PortsTouchOnlyWhatTheyMay :
    (step busy = .next (after (step busy)) ∧ busy.takeTurn.port = .producer) ∧
    (step (popping 3 [] (holding 8 fresh)) = .next (after (step (popping 3 [] (holding 8 fresh)))) ∧
      (popping 3 [] (holding 8 fresh)).takeTurn.port = .consumer) ∧
    (step (given .host 0x1100000000000000 fresh) = .next (after (step (given .host 0x1100000000000000 fresh))) ∧
      (given .host 0x1100000000000000 fresh).takeTurn.port = .host ∧
      (given .host 0x1100000000000000 fresh).life ≠ .uninit) :=
  ⟨⟨rfl, rfl⟩, ⟨rfl, rfl⟩, ⟨rfl, rfl, by decide⟩⟩

theorem witness_DestroyedIsTerminal :
    (destroyed fresh).life = .destroyed ∧ (destroyed fresh).flight = .idle ∧ Instr.pump ≠ .isPlaying ∧
    (∀ r, Instr.pump ≠ .readReg r) ∧ (destroyed busy).life = .destroyed ∧
    step (destroyed busy) = .next (after (step (destroyed busy))) :=
  ⟨rfl, rfl, by decide, fun r => by simp, rfl, rfl⟩

theorem witness_InertUntilInitialized :
    (State.powerOn Config.ref).life = .uninit ∧ (State.powerOn Config.ref).flight = .idle ∧
    (destroyed fresh).life = .destroyed ∧ (destroyed fresh).flight = .idle ∧
    (Instr.cycle true).mnemonic ∈
      ["CYCLE", "PUSH", "POP_BLOCK", "OCCUPANCY", "PUMP", "BEGIN_PLAY", "STOP_PLAY"] := by
  decide

/-- One unit of time short of an emission, with `k` samples in the ring. -/
def nearEnd (k : Nat) (e h : BitVec 64) : State := { holding k fresh with elapsed := e, highacc := h }

theorem inv_nearEnd_none : (nearEnd 0 8 8).Inv := inv_idle (by decide) rfl
theorem inv_nearEnd_below : (nearEnd 7 9 3).Inv := inv_idle (by decide) rfl
theorem inv_nearEnd_full : (nearEnd 8 9 3).Inv := inv_idle (by decide) rfl

/-- One cycle short of an emission, and the cycle that reaches `CPS`. -/
theorem witness_CycleTogglesThenCountsThenCompares :
    ((nearEnd 0 8 8).Inv ∧ (nearEnd 0 8 8).life = .stopped ∧
      9 = (nearEnd 0 8 8).elapsed.toNat + (nearEnd 0 8 8).cfg.unit ∧
      8 = (nearEnd 0 8 8).highacc.toNat +
        (if (if false then !(nearEnd 0 8 8).high else (nearEnd 0 8 8).high) then (nearEnd 0 8 8).cfg.unit
          else 0) ∧
      9 < (nearEnd 0 8 8).cps.toNat) ∧
    ((nearEnd 8 9 3).Inv ∧ (nearEnd 8 9 3).life = .stopped ∧
      10 = (nearEnd 8 9 3).elapsed.toNat + (nearEnd 8 9 3).cfg.unit ∧
      4 = (nearEnd 8 9 3).highacc.toNat +
        (if (if true then !(nearEnd 8 9 3).high else (nearEnd 8 9 3).high) then (nearEnd 8 9 3).cfg.unit
          else 0) ∧
      (nearEnd 8 9 3).cps.toNat ≤ 10) :=
  ⟨⟨inv_nearEnd_none, rfl, by decide, by decide, by decide⟩,
    ⟨inv_nearEnd_full, rfl, by decide, by decide, by decide⟩⟩

theorem witness_CycleCountsOneUnit :
    (nearEnd 0 8 8).Inv ∧ (nearEnd 0 8 8).life = .stopped ∧
      (nearEnd 0 8 8).elapsed.toNat + (nearEnd 0 8 8).cfg.unit < (nearEnd 0 8 8).cps.toNat :=
  ⟨inv_nearEnd_none, rfl, by decide⟩

/-- An emission below `DROP_HWM` by one, and one at it. -/
theorem witness_CycleEmitsOneSample :
    ((nearEnd 7 9 3).Inv ∧ (nearEnd 7 9 3).life = .stopped ∧
      10 = (nearEnd 7 9 3).elapsed.toNat + (nearEnd 7 9 3).cfg.unit ∧
      3 = (nearEnd 7 9 3).highacc.toNat +
        (if (if false then !(nearEnd 7 9 3).high else (nearEnd 7 9 3).high) then (nearEnd 7 9 3).cfg.unit
          else 0) ∧
      (nearEnd 7 9 3).cps.toNat ≤ 10 ∧ (nearEnd 7 9 3).occupancy < (nearEnd 7 9 3).cfg.dropHwm) ∧
    ((nearEnd 8 9 3).Inv ∧ (nearEnd 8 9 3).life = .stopped ∧
      10 = (nearEnd 8 9 3).elapsed.toNat + (nearEnd 8 9 3).cfg.unit ∧
      4 = (nearEnd 8 9 3).highacc.toNat +
        (if (if true then !(nearEnd 8 9 3).high else (nearEnd 8 9 3).high) then (nearEnd 8 9 3).cfg.unit
          else 0) ∧
      (nearEnd 8 9 3).cps.toNat ≤ 10 ∧ (nearEnd 8 9 3).occupancy = (nearEnd 8 9 3).cfg.dropHwm) :=
  ⟨⟨inv_nearEnd_below, rfl, by decide, by decide, by decide, by decide⟩,
    ⟨inv_nearEnd_full, rfl, by decide, by decide, by decide, by decide⟩⟩

/-- L2.1.13: `CPS` lowered by the largest `delta`, 4, in the middle of a window. -/
def lowered : State := { fresh with elapsed := 9, cps := 6 }

theorem witness_OvershootStaysBounded :
    lowered.Inv ∧ lowered.life = .stopped ∧ 4 + lowered.cfg.unit ≤ lowered.cfg.cpsMin ∧
    lowered.elapsed.toNat < lowered.cps.toNat + 4 ∧
    exec (.cycle true) lowered = .next (after (exec (.cycle true) lowered)) ∧
    lowered.cps.toNat ≤ lowered.elapsed.toNat + lowered.cfg.unit :=
  ⟨inv_idle (by decide) rfl, rfl, by decide, by decide, rfl, by decide⟩

theorem witness_ResamplingIsDriftFree :
    fresh.Inv ∧ fresh.life = .stopped ∧ fresh.port = .producer ∧ fresh.elapsed = 0 :=
  ⟨inv_fresh, rfl, rfl, rfl⟩

/-- A run that ends with an emission. -/
theorem witness_ResamplingIsDriftFree_emission :
    (after (cycles [true, false, false, true, false] { fresh with cps := 5 })).outP.getLast?
      = some ⟨.ok, 1, 0, []⟩ := by
  decide

/-- A window of five cycles. -/
def five : State := { fresh with cps := 5 }

theorem witness_DutyCycleIsCorrect :
    five.Inv ∧ five.life = .stopped ∧ five.port = .producer ∧ five.elapsed = 0 ∧ five.highacc = 0 ∧
    five.cps.toNat = [true, false, false, true, false].length * five.cfg.unit :=
  ⟨inv_idle (by decide) rfl, rfl, rfl, rfl, rfl, by decide⟩

theorem witness_SampleIsWithinTheRoundingBound : 1 ≤ 3 ∧ 0 < 3 ∧ 3 < 2 ^ 34 := by decide

theorem witness_SamplesAreZeroOrNormal : 1 ≤ 3 ∧ 0 < 3 ∧ 3 < 2 ^ 34 ∧ amplitude 1 3 ≠ 0 := by decide

theorem witness_CountingIgnoresTheGate : fresh.life = .stopped ∧ Life.playing = .playing := ⟨rfl, rfl⟩

theorem witness_PushStoresAndDropsTheOldest :
    ((holding 8 playing).Inv ∧ (holding 8 playing).life = .playing ∧
      (holding 8 playing).occupancy = (holding 8 playing).cfg.dropHwm) ∧
    ((holding 7 fresh).Inv ∧ (holding 7 fresh).life = .stopped ∧
      (holding 7 fresh).occupancy < (holding 7 fresh).cfg.dropHwm) ∧
    ((holding 0 fresh).Inv ∧ (holding 0 fresh).occupancy = 0) :=
  ⟨⟨inv_full, rfl, by decide⟩, ⟨inv_seven, rfl, by decide⟩, ⟨inv_empty, by decide⟩⟩

theorem witness_PushRefinesADropOldestQueue : (holding 8 playing).Inv ∧ (holding 8 playing).life = .playing :=
  ⟨inv_full, rfl⟩

theorem witness_PopClaimTakesTheSnapshot :
    (holding 7 fresh).Inv ∧ (holding 7 fresh).life = .stopped ∧ (holding 7 fresh).flight = .idle :=
  ⟨inv_seven, rfl, rfl⟩

theorem witness_PopCopyReadsOneCell :
    (popping 3 [] (holding 8 fresh)).flight = .pop ∧
      (popping 3 [] (holding 8 fresh)).ctOut.length < (popping 3 [] (holding 8 fresh)).ctK.toNat := by
  decide

/-- Three samples copied, one of them dropped meanwhile. -/
def popped : State := popping 3 [0x100, 0x101, 0x102] (dropped fresh)

/-- One sample copied, two dropped meanwhile. -/
def overtaken : State := popping 1 [0x100] { holding 10 fresh with rptr := 2 }

/-- One drop inside a claim of three, and two drops past a claim of one. -/
theorem witness_PopCommitNeverMovesBackward :
    (popped.Inv ∧ popped.life ≠ .destroyed ∧ popped.flight = .pop ∧
      popped.ctOut.length = popped.ctK.toNat ∧ 1 < popped.cfg.capacity ∧
      (popped.ctR0.toNat + 1) % popped.cfg.capacity = popped.rptr.toNat) ∧
    (overtaken.Inv ∧ overtaken.life ≠ .destroyed ∧ overtaken.flight = .pop ∧
      overtaken.ctOut.length = overtaken.ctK.toNat ∧ 2 < overtaken.cfg.capacity ∧
      (overtaken.ctR0.toNat + 2) % overtaken.cfg.capacity = overtaken.rptr.toNat ∧
      overtaken.ctK.toNat ≤ 2) :=
  ⟨⟨inv_popped, by decide, rfl, by decide, by decide, by decide⟩,
    ⟨inv_popped_all_dropped, by decide, rfl, by decide, by decide, by decide, by decide⟩⟩

theorem witness_PopAfterDestroyKeepsRptr :
    (destroyed (popping 1 [0x100] (holding 4 fresh))).life = .destroyed ∧
    (destroyed (popping 1 [0x100] (holding 4 fresh))).flight = .pop ∧
    (destroyed (popping 1 [0x100] (holding 4 fresh))).ctK.toNat ≤
      (destroyed (popping 1 [0x100] (holding 4 fresh))).ctOut.length := by
  decide

theorem witness_UninterruptedPopTakesTheOldest :
    (holding 7 fresh).Inv ∧ (holding 7 fresh).life = .stopped ∧ (holding 7 fresh).flight = .idle :=
  ⟨inv_seven, rfl, rfl⟩

theorem witness_OccupancyCountsUnreadSamples : (holding 8 playing).Inv ∧ (holding 8 playing).life = .playing :=
  ⟨inv_full, rfl⟩

/-- PLAYING with one sample pending. -/
def tailed : State := { playing with pend := [(0, 7)], pendLen := 1 }

/-- Gate open with a tail pending; gate closed above the threshold; gate open at the threshold. -/
theorem witness_PumpSamplesTheGateOnce :
    (tailed.Inv ∧ tailed.life = .playing ∧ tailed.flight = .idle ∧ tailed.enabled = true ∧
      0 < tailed.pendLen.toNat) ∧
    ((holding 5 fresh).Inv ∧ (holding 5 fresh).life = .stopped ∧ (holding 5 fresh).flight = .idle ∧
      (holding 5 fresh).cfg.pushThreshold < (holding 5 fresh).occupancy) ∧
    ((holding 4 playing).Inv ∧ (holding 4 playing).life = .playing ∧ (holding 4 playing).flight = .idle ∧
      (holding 4 playing).pendLen = 0 ∧
      (holding 4 playing).occupancy ≤ (holding 4 playing).cfg.pushThreshold) :=
  ⟨⟨inv_idle (by decide) rfl, rfl, rfl, rfl, by decide⟩, ⟨inv_idle (by decide) rfl, rfl, rfl, by decide⟩,
    ⟨inv_idle (by decide) rfl, rfl, rfl, rfl, by decide⟩⟩

/-- PUMP's POP_BLOCK with `out` copied of four. -/
def pumpPopping (out : List Sample) : State :=
  { pumping true 5 .popping (holding 5 playing) with ctActive := true, ctK := 4, ctOut := out }

/-- The claim, a copy, the commit. -/
theorem witness_PumpPopsABlock :
    ((pumping true 5 .claim (holding 5 playing)).Inv ∧
      (pumping true 5 .claim (holding 5 playing)).life ≠ .destroyed ∧
      (pumping true 5 .claim (holding 5 playing)).flight = .pump ⟨true, 5, 0, false, false, .claim⟩) ∧
    ((pumpPopping []).Inv ∧ (pumpPopping []).life ≠ .destroyed ∧
      (pumpPopping []).flight = .pump ⟨true, 5, 0, false, false, .popping⟩ ∧
      (pumpPopping []).ctOut.length < (pumpPopping []).ctK.toNat) ∧
    ((pumpPopping [0x100, 0x101, 0x102, 0x103]).Inv ∧
      (pumpPopping [0x100, 0x101, 0x102, 0x103]).life ≠ .destroyed ∧
      (pumpPopping [0x100, 0x101, 0x102, 0x103]).flight = .pump ⟨true, 5, 0, false, false, .popping⟩ ∧
      (pumpPopping [0x100, 0x101, 0x102, 0x103]).ctOut.length =
        (pumpPopping [0x100, 0x101, 0x102, 0x103]).ctK.toNat) :=
  ⟨⟨inv_pump_claim, by decide, rfl⟩, ⟨inv_pump_popping, by decide, rfl, by decide⟩,
    ⟨inv_pump_popped, by decide, rfl, by decide⟩⟩

/-- A new block offered, with an answer of the sink listed. -/
def offering : State := { pumping true 5 (.offerBlock [1, 2, 3, 4]) playing with sinkAccepts := [1] }

/-- The pending tail offered again. -/
def reoffering : State := { pumping true 5 .offerPending playing with pend := [(0, 7)], pendLen := 1 }

theorem witness_EnqueueLosesAndRepeatsNothing :
    (offering.Inv ∧ offering.life ≠ .destroyed ∧
      offering.flight = .pump ⟨true, 5, 0, false, false, .offerBlock [1, 2, 3, 4]⟩ ∧
      offering.sinkAccepts = 1 :: []) ∧
    (reoffering.Inv ∧ reoffering.life ≠ .destroyed ∧
      reoffering.flight = .pump ⟨true, 5, 0, false, false, .offerPending⟩ ∧ [7] = reoffering.pending) :=
  ⟨⟨inv_pump (w := 0x0500000000000000) (by decide) rfl rfl (by decide) (by decide) (by decide)
      (show true = true ∧ 1 ≤ 4 ∧ 4 ≤ 4 by decide), by decide, rfl, rfl⟩,
    ⟨inv_pump_pending, by decide, rfl, by decide⟩⟩

/-- The sink is asked for its depth, with its answer listed. -/
def asking : State := { pumping true 5 .queuedDepth playing with sinkDepths := [9] }

theorem witness_PumpFlushesADeepSink :
    (asking.life ≠ .destroyed ∧ asking.flight = .pump ⟨true, 5, 0, false, false, .queuedDepth⟩ ∧
      asking.sinkDepths = 9 :: []) ∧
    ((pumping true 5 (.flush 9) playing).life ≠ .destroyed ∧
      (pumping true 5 (.flush 9) playing).flight = .pump ⟨true, 5, 0, false, false, .flush 9⟩) := by
  decide

/-- A reading below `RATE_LWM`, above `RATE_HWM`, and at each mark. -/
theorem witness_PumpAdjustsTheRateAndResponds :
    (∀ occ, (pumping true occ (.adjust 0) playing).Inv ∧
      (pumping true occ (.adjust 0) playing).life ≠ .destroyed ∧
      (pumping true occ (.adjust 0) playing).flight = .pump ⟨true, occ, 0, false, false, .adjust 0⟩ ∧
      (pumping true occ (.adjust 0) playing).cfg = Config.ref ∧
      occ.toNat = (match Config.ref.rateSource with | .ring => occ.toNat | .sink => (0 : BitVec 32).toNat)) ∧
    (1 : BitVec 32).toNat < Config.ref.rateLwm ∧ Config.ref.rateHwm < (7 : BitVec 32).toNat ∧
    Config.ref.rateLwm ≤ (2 : BitVec 32).toNat ∧ (6 : BitVec 32).toNat ≤ Config.ref.rateHwm :=
  ⟨fun occ => ⟨inv_pump_adjust occ, show playing.life ≠ .destroyed by decide, rfl, rfl, rfl⟩, by decide,
    by decide, by decide, by decide⟩

/-- R220's example: five samples, and a sink that takes four and is empty. -/
def pumpable : State := { holding 5 playing with sinkAccepts := [4], sinkDepths := [0] }

theorem witness_UninterruptedPumpMovesABlock :
    pumpable.Inv ∧ pumpable.life = .playing ∧ pumpable.enabled = true ∧ pumpable.flight = .idle ∧
    pumpable.pendLen = 0 ∧ pumpable.cfg.pushThreshold < pumpable.occupancy ∧
    4 = min pumpable.cfg.block pumpable.occupancy ∧ 4 ≤ 4 ∧ pumpable.sinkAccepts = 4 :: [] ∧
    pumpable.sinkDepths = 0 :: [] ∧
    5 = (match pumpable.cfg.rateSource with | .ring => pumpable.occupancy | .sink => (0 : BitVec 32).toNat) :=
  ⟨inv_idle (by decide) rfl, rfl, rfl, rfl, rfl, by decide, by decide, by decide, rfl, rfl, by decide⟩

/-- A copy that goes on, and a point that ends INERT. -/
theorem witness_PumpEndsInertAfterDestroy :
    ((destroyed (pumpPopping [])).life = .destroyed ∧
      (destroyed (pumpPopping [])).flight = .pump ⟨true, 5, 0, false, false, .popping⟩ ∧
      (destroyed (pumpPopping [])).ctOut.length < (destroyed (pumpPopping [])).ctK.toNat) ∧
    ((destroyed (pumping true 5 (.adjust 0) playing)).life = .destroyed ∧
      (destroyed (pumping true 5 (.adjust 0) playing)).flight = .pump ⟨true, 5, 0, false, false, .adjust 0⟩ ∧
      ¬ (PumpPoint.adjust 0 = .popping ∧ (destroyed (pumping true 5 (.adjust 0) playing)).ctOut.length <
        (destroyed (pumping true 5 (.adjust 0) playing)).ctK.toNat)) := by
  decide

/-- An `Enqueue`; a first action. -/
theorem witness_EnqueueOnlyWithTheGateOpen :
    ({ pumping true 5 (.offerBlock [1, 2]) playing with sinkAccepts := [2] }.Inv ∧
      step { pumping true 5 (.offerBlock [1, 2]) playing with sinkAccepts := [2] }
        = .next (after (step { pumping true 5 (.offerBlock [1, 2]) playing with sinkAccepts := [2] })) ∧
      (after (step { pumping true 5 (.offerBlock [1, 2]) playing with sinkAccepts := [2] })).sinkCalls
        = playing.sinkCalls ++ [.enqueue [1, 2] 2] ∧
      (after (step { pumping true 5 (.offerBlock [1, 2]) playing with sinkAccepts := [2] })).flight
        = .pump ⟨true, 5, 2, false, false, .queuedDepth⟩) ∧
    ((given .consumer 0x0500000000000000 playing).Inv ∧
      step (given .consumer 0x0500000000000000 playing)
        = .next (after (step (given .consumer 0x0500000000000000 playing))) ∧
      (given .consumer 0x0500000000000000 playing).flight = .idle ∧
      (after (step (given .consumer 0x0500000000000000 playing))).flight
        = .pump ⟨true, 0, 0, false, false, .queuedDepth⟩) :=
  ⟨⟨inv_pump (w := 0x0500000000000000) (by decide) rfl rfl (by decide) (by decide) (by decide)
      (show true = true ∧ 1 ≤ 2 ∧ 2 ≤ 4 by decide), rfl, by decide, by decide⟩,
    ⟨inv_idle (by decide) rfl, rfl, rfl, by decide⟩⟩

/-- Power-on, with the sink's answer to `Open` listed. -/
def before (ok : Bool) : State := { State.powerOn Config.ref with sinkOpens := [ok] }

theorem witness_InitializeSetsTheDefaults :
    (before true).life = .uninit ∧ (before true).sinkOpens = true :: [] ∧ (before true).cfg.Legal := by
  decide

theorem witness_InitializeFailsWithoutAnEffect :
    (before false).life = .uninit ∧ (before false).sinkOpens = false :: [] ∧ fresh.life ≠ .uninit := by
  decide

theorem witness_BeginAndStopPlaySetLife : fresh.life = .stopped ∧ playing.life = .playing := ⟨rfl, rfl⟩

theorem witness_EnableAndDisableSetTheMute : (State.powerOn Config.ref).life ≠ .destroyed := by decide

theorem witness_ExportAnswersTheRecord : (State.powerOn Config.ref).life ≠ .destroyed := by decide

theorem witness_ImportLoadsFieldByField : fresh.cfg.Legal ∧ fresh.life ≠ .destroyed := by decide

/-- L1.5's block A. -/
def blockA : State := { fresh with cps := 13, enabled := false }

theorem witness_ExportThenImportRoundTrips :
    blockA.Inv ∧ fresh.cfg = blockA.cfg ∧ blockA.life ≠ .destroyed ∧ fresh.life ≠ .destroyed :=
  ⟨inv_idle (by decide) rfl, rfl, by decide, by decide⟩

theorem witness_ImportBeforeInitializeIsLost :
    (before true).life = .uninit ∧ (before true).sinkOpens = true :: [] ∧ (before true).cfg.Legal := by
  decide

theorem witness_DestroyClosesAnOpenSink :
    playing.life ≠ .destroyed ∧ (State.powerOn Config.ref).life ≠ .destroyed := by
  decide

/-- The unassigned numbers 8, 0x0F and 0x1F, and the assigned ones 7, 0x10 and 0x1E. -/
theorem witness_ReadRegAnswersTheRegister :
    playing.Inv ∧ (8 ≤ (0x08 : BitVec 32).toNat ∧ (0x0F : BitVec 32).toNat < 0x10) ∧
    0x1F ≤ (0x1F : BitVec 32).toNat ∧ (0x07 : BitVec 32).toNat < 8 ∧
    (0x10 ≤ (0x10 : BitVec 32).toNat ∧ (0x1E : BitVec 32).toNat < 0x1F) :=
  ⟨inv_playing, by decide, by decide, by decide, by decide⟩

end Sys2Proof.Tests
end

/-! PROOFS. 20_memory.md: the commands of port P are answered in the one step that picks port P (R79). -/

namespace Sys2Proof.Machine

/-! ### Answers in one action -/

/-- A response that follows work which keeps the port and the queues answers the port's oldest command. -/
theorem State.respond_answered_of_queues {s u : State} (st : Status) (count : BitVec 32) (data : BitVec 64)
    (xs : List Sample) (hport : u.port = s.port) (hin : u.inbox = s.inbox) (hout : u.outbox = s.outbox) :
    s.Answered (u.respond st count data xs) s.port ⟨st, count, data, xs⟩ := by
  have h := u.respond_answered st count data xs
  unfold State.Answered at h ⊢
  rwa [hport, hin, hout] at h

/-- Every way through CYCLE ends in its response (40_sample_clock.md R130). -/
theorem exec_cycle_answered (b : Bool) (s : State) :
    ∃ t r, exec (.cycle b) s = .next t ∧ s.Answered t s.port r := by
  show ∃ t r, execCycle b s = .next t ∧ s.Answered t s.port r
  unfold execCycle
  split
  case isTrue => exact ⟨_, _, rfl, s.respond_answered _ _ _ _⟩
  case isFalse =>
    split
    case isTrue => exact ⟨_, _, rfl, State.respond_answered_of_queues _ _ _ _ rfl rfl rfl⟩
    case isFalse => exact ⟨_, _, rfl, State.respond_answered_of_queues _ _ _ _ rfl rfl rfl⟩

/-- Every way through PUSH ends in its response, full ring or not (41_ring_buffer.md R162). -/
theorem exec_push_answered (x : Sample) (s : State) :
    ∃ t r, exec (.push x) s = .next t ∧ s.Answered t s.port r := by
  show ∃ t r, execPush x s = .next t ∧ s.Answered t s.port r
  unfold execPush
  split
  case isTrue => exact ⟨_, _, rfl, s.respond_answered _ _ _ _⟩
  case isFalse => exact ⟨_, _, rfl, State.respond_answered_of_queues _ _ _ _ rfl rfl rfl⟩

/-- OCCUPANCY is answered at once on the asking port (41_ring_buffer.md R168). -/
theorem exec_occupancy_answered (s : State) :
    ∃ t r, exec .occupancy s = .next t ∧ s.Answered t s.port r := by
  show ∃ t r, execOccupancy s = .next t ∧ s.Answered t s.port r
  unfold execOccupancy
  split
  case isTrue => exact ⟨_, _, rfl, s.respond_answered _ _ _ _⟩
  case isFalse => exact ⟨_, _, rfl, s.respond_answered _ _ _ _⟩

/-- The instructions that R103 lists for port P. -/
theorem producer_mem_ports {i : Instr} (h : .producer ∈ i.ports) :
    (∃ b, i = .cycle b) ∨ (∃ x, i = .push x) ∨ i = .occupancy := by
  cases i with
  | cycle b => exact .inl ⟨b, rfl⟩
  | push x => exact .inr (.inl ⟨x, rfl⟩)
  | occupancy => exact .inr (.inr rfl)
  | _ => simp [Instr.ports] at h

/-- Each of them is answered by its one action, whatever is in flight on port C. -/
theorem exec_answered_of_producer {i : Instr} (s : State) (h : .producer ∈ i.ports) :
    ∃ t r, exec i s = .next t ∧ s.Answered t s.port r := by
  obtain ⟨b, rfl⟩ | ⟨x, rfl⟩ | rfl := producer_mem_ports h
  · exact exec_cycle_answered b s
  · exact exec_push_answered x s
  · exact exec_occupancy_answered s

/-! ### The step -/

/-- An action always has a next state. -/
theorem State.act_next (s : State) : ∃ t, s.act = .next t := by
  unfold State.act
  split
  · exact ⟨_, rfl⟩
  · split
    · exact ⟨_, rfl⟩
    · exact exec_next _ s

/-- Under a legal configuration a step always has a next state (60_exceptions.md R313). -/
theorem step_next_of_legal {s : State} (hl : s.cfg.Legal) : ∃ t, step s = .next t := by
  unfold step State.stepAction
  rw [if_pos hl]
  exact s.takeTurn.act_next

/-- Taking a turn moves no queue, so what is an answer after it is one before it. -/
theorem State.answered_of_takeTurn {s t : State} {p : Port} {r : Response}
    (h : s.takeTurn.Answered t p r) : s.Answered t p r := by
  simpa only [State.Answered, State.takeTurn_inbox, State.takeTurn_outbox] using h

/-- A step that gives port P its turn answers port P's oldest command, legal or not. -/
theorem step_answered_of_producer {s t : State} (hstep : step s = .next t)
    (hport : s.takeTurn.port = .producer) (hcmd : s.inP ≠ []) : ∃ r, s.Answered t .producer r := by
  suffices ∃ r, s.takeTurn.Answered t s.takeTurn.port r by
    obtain ⟨r, hr⟩ := this
    exact ⟨r, State.answered_of_takeTurn (hport ▸ hr)⟩
  obtain ⟨-, ⟨hempty, -⟩ | ⟨w, ws, -, ⟨e, -, rfl⟩ | ⟨i, -, hi, hexec⟩⟩⟩ := step_cases hstep
  · rw [hport] at hempty
    exact absurd hempty hcmd
  · exact ⟨_, s.takeTurn.respond_answered _ _ _ _⟩
  · rw [hport] at hi
    obtain ⟨u, r, hu, hr⟩ := exec_answered_of_producer s.takeTurn hi
    obtain rfl : u = t := Host.Outcome.next.inj (hu.symm.trans hexec)
    exact ⟨r, hr⟩

/-- Settles O12: the step exists because the configuration is legal, and whatever it does on port P is
an answer, because no command of port P takes a second action. -/
theorem producerNeverWaits : Obligations.ProducerNeverWaits := by
  unfold Obligations.ProducerNeverWaits
  intro s later w ws hl hsched hin
  obtain ⟨t, ht⟩ := step_next_of_legal hl
  have hport : s.takeTurn.port = .producer := by rw [State.takeTurn_of_schedule hsched]
  obtain ⟨r, hinbox, houtbox, -⟩ := step_answered_of_producer ht hport (by simp [hin])
  have htail : t.inP = s.inP.tail := hinbox
  exact ⟨t, r, ht, by rw [htail, hin, List.tail_cons], houtbox⟩

end Sys2Proof.Machine

/-! PROOFS. 30_encoding.md: which words are illegal, why, and how they are answered (R103 to R106, R109),
and the words of the pseudo-commands (R111). -/

namespace Sys2Proof

/-! ### Masks and fields (R100, R103) -/

@[simp] theorem opcField_and (v w : CommandWord) : opcField (v &&& w) = opcField v &&& opcField w :=
  BitVec.extractLsb'_and

@[simp] theorem rsvField_and (v w : CommandWord) : rsvField (v &&& w) = rsvField v &&& rsvField w :=
  BitVec.extractLsb'_and

@[simp] theorem flgField_and (v w : CommandWord) : flgField (v &&& w) = flgField v &&& flgField w :=
  BitVec.extractLsb'_and

@[simp] theorem immField_and (v w : CommandWord) : immField (v &&& w) = immField v &&& immField w :=
  BitVec.extractLsb'_and

/-- Words are equal exactly when their four fields are. -/
theorem commandWord_eq_iff {v w : CommandWord} :
    v = w ↔ opcField v = opcField w ∧ rsvField v = rsvField w ∧ flgField v = flgField w ∧
      immField v = immField w := by
  rw [← packWord_inj, packWord_fields, packWord_fields]

/-- What the rows of R103 have in common: every mask covers all of `OPC` and `RSV`, and every match is an
opcode of the map with zeros below it. -/
theorem opcodeTable_fields : ∀ r ∈ opcodeTable,
    opcField r.mask = BitVec.allOnes 8 ∧ rsvField r.mask = BitVec.allOnes 20 ∧
    opcField r.pattern ∈ definedOpcodes ∧ rsvField r.pattern = 0 ∧ flgField r.pattern = 0 ∧
    immField r.pattern = 0 := by
  decide

/-- No bit of `FLG` or `IMM` that the row's mask covers is set: the part of R104 the operands decide. -/
def TableRow.OperandsFit (r : TableRow) (flg : BitVec 4) (imm : BitVec 32) : Prop :=
  flg &&& flgField r.mask = 0 ∧ imm &&& immField r.mask = 0

/-- A row selects a word field by field: its opcode, `RSV = 0`, and operands that fit (R103, R104). -/
theorem selects_iff {r : TableRow} (hr : r ∈ opcodeTable) (w : CommandWord) :
    r.Selects w ↔ opcField w = opcField r.pattern ∧ rsvField w = 0 ∧
      r.OperandsFit (flgField w) (immField w) := by
  obtain ⟨hopcMask, hrsvMask, -, hrsv, hflg, himm⟩ := opcodeTable_fields r hr
  rw [TableRow.Selects, commandWord_eq_iff, opcField_and, rsvField_and, flgField_and, immField_and,
    hopcMask, hrsvMask, hrsv, hflg, himm, BitVec.and_allOnes, BitVec.and_allOnes, TableRow.OperandsFit]

/-! ### The operands of a row (R102, R104) -/

/-- The operand decoder agrees with the row: operands that fit give an instruction of the row's ports,
others are refused as a field that is not zero. -/
def TableRow.Decodes (r : TableRow) : Prop :=
  ∀ (flg : BitVec 4) (imm : BitVec 32),
    (r.OperandsFit flg imm → ∃ i, decodeFields (opcField r.pattern) flg imm = .ok i ∧ i.ports = r.ports) ∧
    (¬ r.OperandsFit flg imm → decodeFields (opcField r.pattern) flg imm = .error .fieldNotZero)

/-- A decoder that tests a condition and then builds the row's instruction, when the condition is the
row's mask. -/
theorem TableRow.decodes_of_ite {r : TableRow} {c : BitVec 4 → BitVec 32 → Prop}
    [∀ flg imm, Decidable (c flg imm)] {i : BitVec 4 → BitVec 32 → Instr}
    (hdec : ∀ flg imm, decodeFields (opcField r.pattern) flg imm =
      if c flg imm then .ok (i flg imm) else .error .fieldNotZero)
    (hfit : ∀ flg imm, r.OperandsFit flg imm ↔ c flg imm)
    (hports : ∀ flg imm, (i flg imm).ports = r.ports) : r.Decodes := by
  intro flg imm
  rw [hfit, hdec]
  exact ⟨fun h => ⟨i flg imm, if_pos h, hports flg imm⟩, fun h => if_neg h⟩

/-- A mask of every bit of `FLG` and `IMM` fits only zeros: the commands without operands. -/
theorem TableRow.operandsFit_plain {r : TableRow} (hf : flgField r.mask = BitVec.allOnes 4)
    (hi : immField r.mask = BitVec.allOnes 32) (flg : BitVec 4) (imm : BitVec 32) :
    r.OperandsFit flg imm ↔ flg = 0 ∧ imm = 0 := by
  rw [TableRow.OperandsFit, hf, hi, BitVec.and_allOnes, BitVec.and_allOnes]

/-- A mask of `FLG` alone leaves `IMM` free: PUSH, POP_BLOCK and READ_REG. -/
theorem TableRow.operandsFit_imm {r : TableRow} (hf : flgField r.mask = BitVec.allOnes 4)
    (hi : immField r.mask = 0#32) (flg : BitVec 4) (imm : BitVec 32) :
    r.OperandsFit flg imm ↔ flg = 0 := by
  rw [TableRow.OperandsFit, hf, hi, BitVec.and_allOnes, BitVec.and_zero]
  exact and_iff_left rfl

/-- CYCLE's mask leaves `FLG[0]` free (R102). -/
theorem flg_and_cycleMask (flg : BitVec 4) : flg &&& 0xE#4 = 0 ↔ flg.extractLsb' 1 3 = 0 := by
  revert flg
  decide

theorem TableRow.operandsFit_cycle {r : TableRow} (hf : flgField r.mask = 0xE#4)
    (hi : immField r.mask = BitVec.allOnes 32) (flg : BitVec 4) (imm : BitVec 32) :
    r.OperandsFit flg imm ↔ flg.extractLsb' 1 3 = 0 ∧ imm = 0 := by
  rw [TableRow.OperandsFit, hf, hi, BitVec.and_allOnes, flg_and_cycleMask]

/-- IMPORT's mask leaves `FLG[2:0]` free (R102). -/
theorem flg_and_importMask (flg : BitVec 4) : flg &&& 0x8#4 = 0 ↔ flg.getLsbD 3 = false := by
  revert flg
  decide

theorem TableRow.operandsFit_import {r : TableRow} (hf : flgField r.mask = 0x8#4)
    (hi : immField r.mask = 0#32) (flg : BitVec 4) (imm : BitVec 32) :
    r.OperandsFit flg imm ↔ flg.getLsbD 3 = false := by
  rw [TableRow.OperandsFit, hf, hi, BitVec.and_zero, flg_and_importMask]
  exact and_iff_left rfl

/-- A row without operands. -/
theorem TableRow.decodes_plain {r : TableRow} (i : Instr)
    (hdec : ∀ flg imm, decodeFields (opcField r.pattern) flg imm = plainOperands flg imm i)
    (hf : flgField r.mask = BitVec.allOnes 4) (hi : immField r.mask = BitVec.allOnes 32)
    (hports : i.ports = r.ports) : r.Decodes :=
  TableRow.decodes_of_ite hdec (TableRow.operandsFit_plain hf hi) fun _ _ => hports

/-- A row whose one operand is `IMM`. -/
theorem TableRow.decodes_imm {r : TableRow} (i : BitVec 32 → Instr)
    (hdec : ∀ flg imm, decodeFields (opcField r.pattern) flg imm = immOperand flg (i imm))
    (hf : flgField r.mask = BitVec.allOnes 4) (hi : immField r.mask = 0#32)
    (hports : ∀ imm, (i imm).ports = r.ports) : r.Decodes :=
  TableRow.decodes_of_ite hdec (TableRow.operandsFit_imm hf hi) fun _ imm => hports imm

/-- Every row of R103, by the operands it has. -/
theorem opcodeTable_decodes {r : TableRow} (hr : r ∈ opcodeTable) : r.Decodes := by
  simp only [opcodeTable, List.mem_cons, List.not_mem_nil, or_false] at hr
  rcases hr with rfl | rfl | rfl | rfl | rfl | rfl | rfl | rfl | rfl | rfl | rfl | rfl | rfl | rfl | rfl
  · exact TableRow.decodes_of_ite (fun _ _ => rfl) (TableRow.operandsFit_cycle rfl rfl) fun _ _ => rfl
  · exact TableRow.decodes_imm .push (fun _ _ => rfl) rfl rfl fun _ => rfl
  · exact TableRow.decodes_imm .popBlock (fun _ _ => rfl) rfl rfl fun _ => rfl
  · exact TableRow.decodes_plain .occupancy (fun _ _ => rfl) rfl rfl rfl
  · exact TableRow.decodes_plain .pump (fun _ _ => rfl) rfl rfl rfl
  · exact TableRow.decodes_imm .readReg (fun _ _ => rfl) rfl rfl fun _ => rfl
  · exact TableRow.decodes_plain .initializeBlock (fun _ _ => rfl) rfl rfl rfl
  · exact TableRow.decodes_plain .beginPlay (fun _ _ => rfl) rfl rfl rfl
  · exact TableRow.decodes_plain .stopPlay (fun _ _ => rfl) rfl rfl rfl
  · exact TableRow.decodes_plain .enable (fun _ _ => rfl) rfl rfl rfl
  · exact TableRow.decodes_plain .disable (fun _ _ => rfl) rfl rfl rfl
  · exact TableRow.decodes_plain .isPlaying (fun _ _ => rfl) rfl rfl rfl
  · exact TableRow.decodes_plain .exportRecord (fun _ _ => rfl) rfl rfl rfl
  · exact TableRow.decodes_of_ite (fun _ _ => rfl) (TableRow.operandsFit_import rfl rfl) fun _ _ => rfl
  · exact TableRow.decodes_plain .destroy (fun _ _ => rfl) rfl rfl rfl

/-! ### The three illegal verdicts (R104 to R106, R109) -/

/-- An opcode outside the map is refused before anything else is looked at (R105). -/
theorem decodeWord_of_undefinedOpcode {w : CommandWord} (h : opcField w ∉ definedOpcodes) :
    decodeWord w = .error .undefinedOpcode :=
  if_neg h

/-- A word with a row's opcode that the row does not select is refused for its fields (R104). -/
theorem decodeWord_of_not_selects {r : TableRow} {w : CommandWord} (hr : r ∈ opcodeTable)
    (hopc : opcField w = opcField r.pattern) (hsel : ¬ r.Selects w) :
    decodeWord w = .error .fieldNotZero := by
  obtain ⟨-, -, hdefined, -⟩ := opcodeTable_fields r hr
  rw [decodeWord, hopc, if_pos hdefined]
  by_cases hrsv : rsvField w = 0
  · rw [if_pos hrsv]
    have hfit : ¬ r.OperandsFit (flgField w) (immField w) := fun hfit =>
      hsel ((selects_iff hr w).mpr ⟨hopc, hrsv, hfit⟩)
    exact (opcodeTable_decodes hr _ _).2 hfit
  · exact if_neg hrsv

/-- A word that a row selects is an instruction with the row's ports (R103). -/
theorem decodeWord_of_selects {r : TableRow} {w : CommandWord} (hr : r ∈ opcodeTable)
    (hsel : r.Selects w) : ∃ i, decodeWord w = .ok i ∧ i.ports = r.ports := by
  obtain ⟨-, -, hdefined, -⟩ := opcodeTable_fields r hr
  obtain ⟨hopc, hrsv, hfit⟩ := (selects_iff hr w).mp hsel
  rw [decodeWord, hopc, if_pos hdefined, if_pos hrsv]
  exact (opcodeTable_decodes hr _ _).1 hfit

/-- A word refused whatever its port is refused on each port. -/
theorem decode_of_decodeWord_error {w : CommandWord} {e : Illegal} (h : decodeWord w = .error e)
    (q : Port) : decode q w = .error e := by
  rw [decode, h]

/-- A legal word is refused on a port that its row does not list (R106). -/
theorem decode_of_wrongPort {r : TableRow} {w : CommandWord} {q : Port} (hr : r ∈ opcodeTable)
    (hsel : r.Selects w) (hq : q ∉ r.ports) : decode q w = .error .wrongPort := by
  obtain ⟨i, hi, hports⟩ := decodeWord_of_selects hr hsel
  rw [← hports] at hq
  rw [decode, hi]
  exact if_neg hq

/-- The opcodes R105 lists are those the map leaves out: 0x00, 0x07 to 0x0F and 0x19 to 0xFF. -/
theorem not_mem_definedOpcodes {o : BitVec 8}
    (h : o.toNat = 0 ∨ (7 ≤ o.toNat ∧ o.toNat ≤ 15) ∨ 25 ≤ o.toNat) : o ∉ definedOpcodes := by
  have hranges : ∀ o ∈ definedOpcodes,
      ¬ (o.toNat = 0 ∨ (7 ≤ o.toNat ∧ o.toNat ≤ 15) ∨ 25 ≤ o.toNat) := by
    decide
  exact fun hmem => hranges o hmem h

namespace Machine

/-! ### The answer and the pseudo-commands -/

/-- Every illegal verdict is answered ILLEGAL by the step that gives the word its turn, with no change to
the block and no call of the sink (R104 to R106, R109). -/
theorem answeredIllegal_of_decode {q : Port} {w : CommandWord} {e : Illegal} (h : decode q w = .error e) :
    AnsweredIllegal q w := by
  intro s later ws hl hsched hin
  have hport : s.takeTurn.port = q := by rw [State.takeTurn_of_schedule hsched]
  obtain ⟨t, ht⟩ := step_next_of_legal hl
  obtain ⟨-, hcases⟩ := step_cases ht
  rw [hport, hin] at hcases
  obtain ⟨hempty, -⟩ | ⟨w', ws', hw, hverdict⟩ := hcases
  · cases hempty
  · injection hw with hw _
    subst hw
    obtain ⟨-, -, rfl⟩ | ⟨i, hi, -⟩ := hverdict
    · refine ⟨_, ht, by simp, by simp, State.answered_of_takeTurn ?_⟩
      rw [← hport]
      exact s.takeTurn.respond_answered _ _ _ _
    · rw [h] at hi
      cases hi

/-- An IMPORT of both fields has `FLG = 1 + 2e + 4` and the value as `IMM`, for every value (R111). -/
theorem encode_importLine_of_both (e : Bool) (c : BitVec 32) :
    encode (importLine (some e) (some c)) = (if e then 0x17000007#32 else 0x17000005#32) ++ c := by
  have hhigh : ∀ e : Bool,
      (0x17#8 ++ 0#20 ++ (0#1 ++ BitVec.ofBool true ++ BitVec.ofBool e ++ BitVec.ofBool true) : BitVec 32) =
        if e then 0x17000007#32 else 0x17000005#32 := by
    decide
  exact congrArg (fun high : BitVec 32 => high ++ c) (hhigh e)

/-! ### The obligations -/

/-- Settles O4: the row refuses the word for its fields whatever the port, and a refused word is
answered ILLEGAL. -/
theorem reservedFieldsAreIllegal : Obligations.ReservedFieldsAreIllegal := by
  intro q w r hr hopc hsel
  have hdec := decode_of_decodeWord_error (decodeWord_of_not_selects hr hopc hsel) q
  exact ⟨hdec, answeredIllegal_of_decode hdec⟩

/-- Settles O5: the listed ranges miss the map, and the all-zero word has opcode 0. -/
theorem undefinedOpcodesAreIllegal : Obligations.UndefinedOpcodesAreIllegal := by
  have hdec (q : Port) {w : CommandWord} (h : opcField w ∉ definedOpcodes) :
      decode q w = .error .undefinedOpcode :=
    decode_of_decodeWord_error (decodeWord_of_undefinedOpcode h) q
  refine ⟨fun q w hranges => ?_, fun q => ?_⟩
  · have hundef : opcField w ∉ definedOpcodes := not_mem_definedOpcodes hranges
    exact ⟨hdec q hundef, answeredIllegal_of_decode (hdec q hundef)⟩
  · have hzero : opcField 0 ∉ definedOpcodes := not_mem_definedOpcodes (.inl rfl)
    exact answeredIllegal_of_decode (hdec q hzero)

/-- Settles O6: the selected row's instruction has the row's ports, so any other port refuses it. -/
theorem wrongPortIsIllegal : Obligations.WrongPortIsIllegal := by
  intro q w r hr hsel hq
  have hdec := decode_of_wrongPort hr hsel hq
  exact ⟨hdec, answeredIllegal_of_decode hdec⟩

/-- Settles O8: RESTORE is the IMPORT of both fields; the other lines are closed words. -/
theorem pseudoCommandsExpand : Obligations.PseudoCommandsExpand :=
  ⟨rfl, rfl, rfl, encode_importLine_of_both, rfl, rfl⟩

end Machine

end Sys2Proof

/-! PROOFS. 40_sample_clock.md: CYCLE toggles, counts at the new level, and compares what it counted
(R131 to R133). -/

namespace Sys2Proof.Machine

/-! ### The two ways through CYCLE -/

/-- The data path runs in STOPPED and in PLAYING (44_playback_control.md R250). -/
theorem Life.inert_eq_false_iff {l : Life} : l.inert = false ↔ l = .stopped ∨ l = .playing := by
  cases l <;> simp [Life.inert]

theorem exec_cycle_of_lt_cps {s : State} (b : Bool) (hlife : s.life.inert = false)
    (h : s.countedElapsed < s.cps.toNat) :
    exec (.cycle b) s = .next ((s.countCycle b).respondOk 0 0) := by
  show execCycle b s = _
  unfold execCycle
  rw [hlife, if_neg Bool.false_ne_true, if_neg (Nat.not_le.mpr h)]

/-- What an emitting CYCLE leaves before its response: the count, the residual of R135, the push of R136. -/
def State.emitCycle (b : Bool) (s : State) : State :=
  ((s.countCycle b).carryResidual (s.countedHigh b) s.countedElapsed).pushSample
    (toSample (amplitude (s.countedHigh b) s.countedElapsed))

theorem exec_cycle_of_cps_le {s : State} (b : Bool) (hlife : s.life.inert = false)
    (h : s.cps.toNat ≤ s.countedElapsed) :
    exec (.cycle b) s = .next ((s.emitCycle b).respondOk 1 (BitVec.ofNat 64 s.dropsOnPush)) := by
  show execCycle b s = _
  unfold execCycle
  rw [hlife, if_neg Bool.false_ne_true, if_pos h]
  rfl

/-! ### The counted values (R132) -/

theorem State.countedHigh_eq (b : Bool) (s : State) :
    s.countedHigh b = s.highacc.toNat + if toggled b s.high then s.cfg.unit else 0 := by
  unfold State.countedHigh
  split <;> rfl

/-- `HIGHACC <= ELAPSED` survives the count (R137). -/
theorem State.countedHigh_le {s : State} (b : Bool) (h : s.highacc.toNat ≤ s.elapsed.toNat) :
    s.countedHigh b ≤ s.countedElapsed := by
  unfold State.countedHigh State.countedElapsed
  split <;> omega

/-- A counted `ELAPSED` fits its register, by the bound of R141 (a). -/
theorem State.countedElapsed_lt {s : State} (hs : s.Inv) : s.countedElapsed < 2 ^ 64 := by
  have hbounds := Config.bounds_of_legal hs.legal
  have helapsed := hs.elapsed_lt
  unfold State.countedElapsed
  omega

theorem State.countCycle_elapsed_toNat {s : State} (b : Bool) (hs : s.Inv) :
    (s.countCycle b).elapsed.toNat = s.countedElapsed := by
  rw [State.countCycle_elapsed, BitVec.toNat_ofNat, Nat.mod_eq_of_lt (State.countedElapsed_lt hs)]

theorem State.countCycle_highacc_toNat {s : State} (b : Bool) (hs : s.Inv) :
    (s.countCycle b).highacc.toNat = s.countedHigh b := by
  have hlt := (State.countedHigh_le b hs.highacc_le).trans_lt (State.countedElapsed_lt hs)
  rw [State.countCycle_highacc, BitVec.toNat_ofNat, Nat.mod_eq_of_lt hlt]

/-! ### The emitted sample (R133, R134) -/

/-- A push leaves its sample in the cell that `WPTR` named (41_ring_buffer.md R160). -/
theorem State.pushSample_readStore_wptr (x : Sample) (s : State) :
    (s.pushSample x).readStore s.wptr.toNat = x := by
  simp [State.readStore, Memory.find_write_same]

theorem State.emitCycle_wptr_toNat {s : State} (b : Bool) (hl : s.cfg.Legal) :
    (s.emitCycle b).wptr.toNat = (s.wptr.toNat + 1) % s.cfg.capacity :=
  State.pushSample_wptr_toNat (s := (s.countCycle b).carryResidual (s.countedHigh b) s.countedElapsed) _ hl

theorem State.emitCycle_readStore_wptr (b : Bool) (s : State) :
    (s.emitCycle b).readStore s.wptr.toNat =
      toSample (amplitude (s.countedHigh b) s.countedElapsed) :=
  State.pushSample_readStore_wptr _ ((s.countCycle b).carryResidual (s.countedHigh b) s.countedElapsed)

/-! ### The obligation -/

/-- Settles O24: the counted `ELAPSED` is below `CPS` or not, and each side has one way through CYCLE. -/
theorem cycleTogglesThenCountsThenCompares : Obligations.CycleTogglesThenCountsThenCompares := by
  unfold Obligations.CycleTogglesThenCountsThenCompares
  intro b s h e hs hlife he hh
  have hactive : s.life.inert = false := Life.inert_eq_false_iff.mpr hlife
  obtain rfl : e = s.countedElapsed := he
  obtain rfl : h = s.countedHigh b := hh.trans (s.countedHigh_eq b).symm
  rcases Nat.lt_or_ge s.countedElapsed s.cps.toNat with hlt | hge
  · exact ⟨_, _, _, exec_cycle_of_lt_cps b hactive hlt, rfl,
      State.respond_answered_of_queues _ _ _ _ rfl rfl rfl,
      fun _ => ⟨rfl, rfl, rfl, State.countCycle_elapsed_toNat b hs, State.countCycle_highacc_toNat b hs⟩,
      fun hge => absurd hlt (Nat.not_lt.mpr hge)⟩
  · exact ⟨_, _, _, exec_cycle_of_cps_le b hactive hge, rfl,
      State.respond_answered_of_queues _ _ _ _ rfl rfl rfl,
      fun hlt => absurd hlt (Nat.not_lt.mpr hge),
      fun _ => ⟨rfl, State.emitCycle_wptr_toNat b hs.legal, State.emitCycle_readStore_wptr b s⟩⟩

end Sys2Proof.Machine

/-! PROOFS. 30_encoding.md: the encoder and the decoder undo each other, and the decoder is the lookup of
the table of R103 (R100 to R104, R109, R112). -/

namespace Sys2Proof

/-! ### Decoding an encoded instruction (R102, R103) -/

theorem Instr.opcode_mem_definedOpcodes (i : Instr) : i.opcode ∈ definedOpcodes := by
  cases i <;> simp [Instr.opcode, definedOpcodes]

/-- The four bits of IMPORT's `FLG` (R102). -/
theorem flg_importRecord_bits (ev en cv : Bool) (cps : BitVec 32) :
    let flg := (Instr.importRecord ev en cv cps).flg
    flg.getLsbD 0 = ev ∧ flg.getLsbD 1 = en ∧ flg.getLsbD 2 = cv ∧ flg.getLsbD 3 = false := by
  simp only [Instr.flg]
  revert ev en cv
  decide

theorem decodeFields_import (flg : BitVec 4) (imm : BitVec 32) :
    decodeFields 0x17 flg imm =
      if flg.getLsbD 3 = false then
        .ok (.importRecord (flg.getLsbD 0) (flg.getLsbD 1) (flg.getLsbD 2) imm)
      else .error .fieldNotZero := rfl

/-- The operand decoder reads an instruction's own fields back. -/
theorem decodeFields_of_fields (i : Instr) : decodeFields i.opcode i.flg i.imm = .ok i := by
  cases i with
  | cycle t => cases t <;> rfl
  | importRecord ev en cv cps =>
    obtain ⟨hev, hen, hcv, hzero⟩ := flg_importRecord_bits ev en cv cps
    refine (decodeFields_import _ cps).trans ?_
    rw [if_pos hzero, hev, hen, hcv]
  | _ => rfl

theorem decodeWord_encode (i : Instr) : decodeWord (encode i) = .ok i := by
  unfold encode decodeWord
  rw [opcField_packWord, rsvField_packWord, flgField_packWord, immField_packWord,
    if_pos i.opcode_mem_definedOpcodes, if_pos rfl, decodeFields_of_fields]

/-- The port check of R106 after a successful decoding. -/
theorem decode_of_decodeWord {w : CommandWord} {i : Instr} (h : decodeWord w = .ok i) (q : Port) :
    decode q w = if q ∈ i.ports then .ok i else .error .wrongPort := by
  rw [decode, h]

/-! ### Encoding a decoded word (R100, R104) -/

/-- `i` has exactly these fields, so encoding it gives them back. -/
def Instr.HasFields (i : Instr) (opc : BitVec 8) (flg : BitVec 4) (imm : BitVec 32) : Prop :=
  i.opcode = opc ∧ i.flg = flg ∧ i.imm = imm

theorem hasFields_of_plainOperands {flg : BitVec 4} {imm : BitVec 32} {i j : Instr}
    (h : plainOperands flg imm j = .ok i) (hflg : j.flg = 0) (himm : j.imm = 0) :
    i.HasFields j.opcode flg imm := by
  unfold plainOperands at h
  split at h
  case isTrue hzero =>
    obtain ⟨rfl, rfl⟩ := hzero
    cases h
    exact ⟨rfl, hflg, himm⟩
  case isFalse => cases h

theorem hasFields_of_immOperand {flg : BitVec 4} {imm : BitVec 32} {i j : Instr}
    (h : immOperand flg j = .ok i) (hflg : j.flg = 0) (himm : j.imm = imm) :
    i.HasFields j.opcode flg imm := by
  unfold immOperand at h
  split at h
  case isTrue hzero =>
    subst hzero
    cases h
    exact ⟨rfl, hflg, himm⟩
  case isFalse => cases h

/-- CYCLE keeps the one bit of `FLG` that its mask leaves free. -/
theorem flg_cycle {flg : BitVec 4} (h : flg.extractLsb' 1 3 = 0) :
    (Instr.cycle (flg.getLsbD 0)).flg = flg := by
  revert flg
  decide

/-- IMPORT keeps the three bits of `FLG` that its mask leaves free. -/
theorem flg_importRecord {flg : BitVec 4} (cps : BitVec 32) (h : flg.getLsbD 3 = false) :
    (Instr.importRecord (flg.getLsbD 0) (flg.getLsbD 1) (flg.getLsbD 2) cps).flg = flg := by
  show 0#1 ++ BitVec.ofBool (flg.getLsbD 2) ++ BitVec.ofBool (flg.getLsbD 1) ++
    BitVec.ofBool (flg.getLsbD 0) = flg
  revert flg
  decide

/-- The operand decoder drops no bit of `FLG` and `IMM` (R104). -/
theorem hasFields_of_decodeFields {opc : BitVec 8} {flg : BitVec 4} {imm : BitVec 32} {i : Instr}
    (h : decodeFields opc flg imm = .ok i) : i.HasFields opc flg imm := by
  unfold decodeFields at h
  split at h
  case h_1 =>
    split at h
    case isTrue hzero =>
      obtain ⟨hflg, rfl⟩ := hzero
      cases h
      exact ⟨rfl, flg_cycle hflg, rfl⟩
    case isFalse => cases h
  case h_14 =>
    split at h
    case isTrue hflg =>
      cases h
      exact ⟨rfl, flg_importRecord imm hflg, rfl⟩
    case isFalse => cases h
  case h_16 => cases h
  case h_2 | h_3 | h_6 => exact hasFields_of_immOperand h rfl rfl
  all_goals exact hasFields_of_plainOperands h rfl rfl

theorem encode_of_decodeWord {w : CommandWord} {i : Instr} (h : decodeWord w = .ok i) :
    encode i = w := by
  unfold decodeWord at h
  split at h
  case isTrue =>
    split at h
    case isTrue hrsv =>
      obtain ⟨hopc, hflg, himm⟩ := hasFields_of_decodeFields h
      rw [encode, hopc, hflg, himm, ← hrsv, packWord_fields]
    case isFalse => cases h
  case isFalse => cases h

/-- The fields of a word that decodes are those of its instruction. -/
theorem fields_of_decodeWord {w : CommandWord} {i : Instr} (h : decodeWord w = .ok i) :
    i.HasFields (opcField w) (flgField w) (immField w) := by
  obtain rfl := encode_of_decodeWord h
  exact ⟨(opcField_packWord _ _ _ _).symm, (flgField_packWord _ _ _ _).symm,
    (immField_packWord _ _ _ _).symm⟩

/-! ### The table lookup (R103, R109) -/

/-- No two rows share an opcode, and the rows cover the opcodes the decoder knows. -/
theorem opcodeTable_opcodes :
    (∀ r ∈ opcodeTable, ∀ r' ∈ opcodeTable, opcField r.pattern = opcField r'.pattern → r = r') ∧
    ∀ o ∈ definedOpcodes, ∃ r ∈ opcodeTable, o = opcField r.pattern := by
  decide

/-- The row with an instruction's opcode has its mnemonic. -/
theorem mnemonic_of_opcode (i : Instr) :
    ∀ r ∈ opcodeTable, i.opcode = opcField r.pattern → i.mnemonic = r.mnemonic := by
  cases i <;> simp only [Instr.opcode, Instr.mnemonic] <;> decide

/-- A word that no row selects is refused whatever its port. -/
theorem decodeWord_of_no_row {w : CommandWord} (h : ∀ r ∈ opcodeTable, ¬ r.Selects w) :
    ∃ e, decodeWord w = .error e := by
  by_cases hdefined : opcField w ∈ definedOpcodes
  · obtain ⟨r, hr, hopc⟩ := opcodeTable_opcodes.2 _ hdefined
    exact ⟨_, decodeWord_of_not_selects hr hopc (h r hr)⟩
  · exact ⟨_, decodeWord_of_undefinedOpcode hdefined⟩

/-- A word that a row selects decodes to the row's command with the word's `FLG` and `IMM`. -/
theorem decodeWord_of_row {r : TableRow} {w : CommandWord} (hr : r ∈ opcodeTable) (hsel : r.Selects w) :
    ∃ i, decodeWord w = .ok i ∧ i.ports = r.ports ∧ i.mnemonic = r.mnemonic ∧
      i.flg = flgField w ∧ i.imm = immField w := by
  obtain ⟨i, hdec, hports⟩ := decodeWord_of_selects hr hsel
  obtain ⟨hopc, hflg, himm⟩ := fields_of_decodeWord hdec
  have hrow : i.opcode = opcField r.pattern := hopc.trans ((selects_iff hr w).mp hsel).1
  exact ⟨i, hdec, hports, mnemonic_of_opcode i r hr hrow, hflg, himm⟩

/-! ### The obligations -/

/-- Settles O1: the word decodes to its instruction whatever the port, and then only the port decides. -/
theorem decodeOfEncodeIsTheCommand : Obligations.DecodeOfEncodeIsTheCommand :=
  fun q i => decode_of_decodeWord (decodeWord_encode i) q

/-- Settles O2: each operand check leaves no bit of the word undetermined. -/
theorem encodeOfDecodeIsTheWord : Obligations.EncodeOfDecodeIsTheWord := by
  intro q w i h
  obtain ⟨hdec, hport⟩ := port_mem_of_decode h
  exact ⟨encode_of_decodeWord hdec, hport⟩

/-- Settles O3: rows differ in their opcode, and the operand checks are the rows' masks. -/
theorem decodeFollowsTheMatchMaskTable : Obligations.DecodeFollowsTheMatchMaskTable := by
  refine ⟨fun w r r' hr hr' hsel hsel' => ?_, fun q w r hr hsel => ?_, fun q w hnone => ?_,
    fun q w e h => Machine.answeredIllegal_of_decode h⟩
  · have hopc := ((selects_iff hr w).mp hsel).1
    have hopc' := ((selects_iff hr' w).mp hsel').1
    exact opcodeTable_opcodes.1 r hr r' hr' (hopc.symm.trans hopc')
  · obtain ⟨i, hdec, hports, hmnemonic, hflg, himm⟩ := decodeWord_of_row hr hsel
    have hq := decode_of_decodeWord hdec q
    rw [hports] at hq
    exact ⟨fun h => ⟨i, hq.trans (if_pos h), hmnemonic, hflg, himm⟩, fun h => ⟨_, hq.trans (if_neg h)⟩⟩
  · obtain ⟨e, he⟩ := decodeWord_of_no_row hnone
    exact ⟨e, decode_of_decodeWord_error he q⟩

/-- Settles O7: the worked encodings are closed words. -/
theorem workedEncodingsDecode : Obligations.WorkedEncodingsDecode :=
  ⟨rfl, rfl, rfl, rfl, rfl, rfl, rfl⟩

end Sys2Proof

/-! PROOFS. What one action of an instruction can do, said once: it ends in a response after one of the
changes of `Ends`, or it leaves its command in flight on port C after one of the changes of `GoesOn`. Every
statement about all steps is a case analysis of these two. -/

namespace Sys2Proof.Machine

/-! ### The lifecycle checks (44_playback_control.md R250) -/

theorem Life.inert_eq_true_iff {l : Life} : l.inert = true ↔ l = .uninit ∨ l = .destroyed := by
  cases l <;> simp [Life.inert]

theorem Life.ne_destroyed_of_active {l : Life} (h : l.inert = false) : l ≠ .destroyed := by
  rintro rfl
  cases h

theorem Life.active_of_ne {l : Life} (hu : l ≠ .uninit) (hd : l ≠ .destroyed) : l.inert = false := by
  rw [Bool.eq_false_iff, Ne, Life.inert_eq_true_iff]
  exact not_or.mpr ⟨hu, hd⟩

theorem Life.ne_uninit_of_active {l : Life} (h : l.inert = false) : l ≠ .uninit := by
  rintro rfl
  cases h

/-! ### The changes an action can make -/

/-- What the action that ends a command does to the state before the response. -/
inductive Ends (s : State) : Instr → State → Prop
  /-- A query, an inert command or an unassigned register: no change. -/
  | unchanged {i : Instr} (hpop : ∀ n, i = .popBlock n → s.flight ≠ .pop)
      (hpump : ∀ l, i = .pump → s.flight ≠ .pump l) : Ends s i s
  | count (b : Bool) (hlife : s.life.inert = false) (hlt : s.countedElapsed < s.cps.toNat) :
      Ends s (.cycle b) (s.countCycle b)
  | emit (b : Bool) (hlife : s.life.inert = false) (hge : s.cps.toNat ≤ s.countedElapsed) :
      Ends s (.cycle b) (s.emitCycle b)
  | push (x : Sample) (hlife : s.life.inert = false) : Ends s (.push x) (s.pushSample x)
  | popCommit (n : BitVec 32) (hflight : s.flight = .pop) (hlen : ¬ s.ctOut.length < s.ctK.toNat)
      (hlife : s.life ≠ .destroyed) : Ends s (.popBlock n) { s.popCommit with flight := .idle }
  | popAbandon (n : BitVec 32) (hflight : s.flight = .pop) (hlife : s.life = .destroyed) :
      Ends s (.popBlock n) { s.popAbandon with flight := .idle }
  /-- R229 at a point of PUMP outside its POP_BLOCK. -/
  | pumpInert (l : PumpFlight) (hflight : s.flight = .pump l) (hpoint : l.point ≠ .popping)
      (hlife : s.life.inert = true) : Ends s .pump { s with flight := .idle }
  /-- R229 at the commit of PUMP's POP_BLOCK. -/
  | pumpAbandon (l : PumpFlight) (hflight : s.flight = .pump l) (hpoint : l.point = .popping)
      (hlife : s.life = .destroyed) : Ends s .pump { s.popAbandon with flight := .idle }
  | pumpAdjust (l : PumpFlight) (q : BitVec 32) (hflight : s.flight = .pump l)
      (hpoint : l.point = .adjust q) (hlife : s.life ≠ .destroyed) :
      Ends s .pump { s.rateAdjust (rateReading s.cfg l.occ q) with flight := .idle }
  | openOk (hlife : s.life = .uninit) (hopen : s.nextOpen = true) :
      Ends s .initializeBlock s.sinkOpen.setDefaults
  | openFail (hlife : s.life = .uninit) (hopen : s.nextOpen = false) :
      Ends s .initializeBlock s.sinkOpen
  | beginPlay (hlife : s.life.inert = false) : Ends s .beginPlay { s with life := .playing }
  | stopPlay (hlife : s.life.inert = false) : Ends s .stopPlay { s with life := .stopped }
  | enable (hlife : s.life ≠ .destroyed) : Ends s .enable { s with enabled := true }
  | disable (hlife : s.life ≠ .destroyed) : Ends s .disable { s with enabled := false }
  | importRecord (ev en cv : Bool) (cps : BitVec 32) (hlife : s.life ≠ .destroyed) :
      Ends s (.importRecord ev en cv cps) (s.importFields ev en cv cps)
  | destroyUnopened (hlife : s.life = .uninit) : Ends s .destroy { s with life := .destroyed }
  | destroyOpen (hlife : s.life.inert = false) :
      Ends s .destroy { s.callSink .close with life := .destroyed }

/-- What an action that leaves its command in flight on port C does. -/
inductive GoesOn (s : State) : Instr → State → Prop
  | popClaim (n : BitVec 32) (hflight : s.flight ≠ .pop) (hlife : s.life.inert = false) :
      GoesOn s (.popBlock n) { s.popClaim (countOperand n) with flight := .pop }
  | popCopy (n : BitVec 32) (hflight : s.flight = .pop) (hlen : s.ctOut.length < s.ctK.toNat) :
      GoesOn s (.popBlock n) s.popCopy
  | pumpStart (hflight : ∀ l, s.flight ≠ .pump l) (hlife : s.life.inert = false) :
      GoesOn s .pump
        { s with
          pendLen := if s.gate then s.pendLen else 0
          flight := .pump
            { fwd := s.gate
              occ := BitVec.ofNat 32 s.occupancy
              acc := 0
              tail := false
              fl := false
              point := pumpStep2 s.cfg s.gate s.occupancy s.pendLen.toNat } }
  | pumpClaim (l : PumpFlight) (hflight : s.flight = .pump l) (hpoint : l.point = .claim)
      (hlife : s.life.inert = false) :
      GoesOn s .pump { s.popClaim s.cfg.block with flight := .pump { l with point := .popping } }
  | pumpCopy (l : PumpFlight) (hflight : s.flight = .pump l) (hpoint : l.point = .popping)
      (hlen : s.ctOut.length < s.ctK.toNat) : GoesOn s .pump s.popCopy
  | pumpCommit (l : PumpFlight) (hflight : s.flight = .pump l) (hpoint : l.point = .popping)
      (hlen : ¬ s.ctOut.length < s.ctK.toNat) (hlife : s.life ≠ .destroyed) :
      GoesOn s .pump
        { s.popCommit with
          flight := .pump { l with point := if l.fwd then .offerBlock s.ctOut else .queuedDepth } }
  | pumpOffer (l : PumpFlight) (xs : List Sample) (hflight : s.flight = .pump l)
      (hpoint : l.point = .offerBlock xs ∨ (l.point = .offerPending ∧ xs = s.pending))
      (hlife : s.life ≠ .destroyed) :
      GoesOn s .pump
        { (s.sinkEnqueue xs).setPending (xs.drop (s.nextAccept xs.length)) with
          flight := .pump
            { l with
              acc := BitVec.ofNat 32 (s.nextAccept xs.length)
              tail := s.nextAccept xs.length < xs.length
              point := .queuedDepth } }
  | pumpDepth (l : PumpFlight) (hflight : s.flight = .pump l) (hpoint : l.point = .queuedDepth)
      (hlife : s.life ≠ .destroyed) :
      GoesOn s .pump
        { s.sinkQueuedDepth with
          flight := .pump
            { l with
              point :=
                if s.cfg.sinkFlushDepth.toNat < s.nextDepth.toNat then .flush s.nextDepth
                else .adjust s.nextDepth } }
  | pumpFlush (l : PumpFlight) (q : BitVec 32) (hflight : s.flight = .pump l)
      (hpoint : l.point = .flush q) (hlife : s.life ≠ .destroyed) :
      GoesOn s .pump { s.callSink .flush with flight := .pump { l with fl := true, point := .adjust q } }

/-- `t` is `s` after a change of `Ends` and the command's response. -/
def Answers (s : State) (i : Instr) (t : State) : Prop :=
  ∃ u st count data xs, Ends s i u ∧ t = u.respond st count data xs

theorem Ends.answers {s u : State} {i : Instr} {st : Status} {count : BitVec 32} {data : BitVec 64}
    {xs : List Sample} (h : Ends s i u) : Answers s i (u.respond st count data xs) :=
  ⟨u, st, count, data, xs, h, rfl⟩

/-- A command of port P or H that changes nothing. -/
theorem Answers.unchanged {s : State} {i : Instr} {st : Status} {count : BitVec 32} {data : BitVec 64}
    {xs : List Sample} (hpop : ∀ n, i ≠ .popBlock n) (hpump : i ≠ .pump) :
    Answers s i (s.respond st count data xs) :=
  Ends.answers (.unchanged (fun n h => absurd h (hpop n)) fun _ h => absurd h hpump)

/-! ### Each meaning makes one of these changes -/

theorem exec_cycle_cases (b : Bool) (s : State) :
    ∃ t, exec (.cycle b) s = .next t ∧ Answers s (.cycle b) t := by
  refine ⟨_, rfl, ?_⟩
  split
  case isTrue => exact .unchanged (by simp) (by simp)
  case isFalse hlife =>
    split
    case isTrue hge => exact (Ends.emit b (Bool.eq_false_iff.mpr hlife) hge).answers
    case isFalse hlt => exact (Ends.count b (Bool.eq_false_iff.mpr hlife) (Nat.not_le.mp hlt)).answers

theorem exec_push_cases (x : Sample) (s : State) :
    ∃ t, exec (.push x) s = .next t ∧ Answers s (.push x) t := by
  refine ⟨_, rfl, ?_⟩
  split
  case isTrue => exact .unchanged (by simp) (by simp)
  case isFalse hlife => exact (Ends.push x (Bool.eq_false_iff.mpr hlife)).answers

theorem exec_popBlock_cases (n : BitVec 32) (s : State) :
    ∃ t, exec (.popBlock n) s = .next t ∧ (Answers s (.popBlock n) t ∨ GoesOn s (.popBlock n) t) := by
  refine ⟨_, rfl, ?_⟩
  split
  case h_1 hflight =>
    unfold State.popNext
    split
    case isTrue hlen => exact .inr (.popCopy n hflight hlen)
    case isFalse hlen =>
      split
      case isTrue hlife => exact .inl (Ends.popAbandon n hflight hlife).answers
      case isFalse hlife => exact .inl (Ends.popCommit n hflight hlen hlife).answers
  case h_2 hflight =>
    split
    case isTrue => exact .inl (Ends.unchanged (fun _ _ => hflight) (by simp)).answers
    case isFalse hlife => exact .inr (.popClaim n hflight (Bool.eq_false_iff.mpr hlife))

/-- PUMP past its first action, point by point (43_output_pump.md R220, R229). -/
theorem pumpNext_cases {l : PumpFlight} {s : State} (hflight : s.flight = .pump l) :
    Answers s .pump (s.pumpNext l) ∨ GoesOn s .pump (s.pumpNext l) := by
  have hinert (hlife : s.life.inert = true) (hpoint : l.point ≠ .popping) :
      Answers s .pump (s.pumpInert l) := (Ends.pumpInert l hflight hpoint hlife).answers
  have hdestroyed (hlife : s.life = .destroyed) (hpoint : l.point ≠ .popping) :
      Answers s .pump (s.pumpInert l) := hinert (by rw [hlife]; rfl) hpoint
  unfold State.pumpNext
  split
  case h_1 hpoint =>
    unfold State.pumpClaim
    split
    case isTrue hlife => exact .inl (hinert hlife (by simp [hpoint]))
    case isFalse hlife => exact .inr (.pumpClaim l hflight hpoint (Bool.eq_false_iff.mpr hlife))
  case h_2 hpoint =>
    unfold State.pumpPop
    split
    case isTrue hlen => exact .inr (.pumpCopy l hflight hpoint hlen)
    case isFalse hlen =>
      split
      case isTrue hlife => exact .inl (Ends.pumpAbandon l hflight hpoint hlife).answers
      case isFalse hlife => exact .inr (.pumpCommit l hflight hpoint hlen hlife)
  case h_3 hpoint =>
    unfold State.pumpOffer
    split
    case isTrue hlife => exact .inl (hdestroyed hlife (by simp [hpoint]))
    case isFalse hlife => exact .inr (.pumpOffer l _ hflight (.inr ⟨hpoint, rfl⟩) hlife)
  case h_4 xs hpoint =>
    unfold State.pumpOffer
    split
    case isTrue hlife => exact .inl (hdestroyed hlife (by simp [hpoint]))
    case isFalse hlife => exact .inr (.pumpOffer l xs hflight (.inl hpoint) hlife)
  case h_5 hpoint =>
    unfold State.pumpDepth
    split
    case isTrue hlife => exact .inl (hdestroyed hlife (by simp [hpoint]))
    case isFalse hlife => exact .inr (.pumpDepth l hflight hpoint hlife)
  case h_6 q hpoint =>
    unfold State.pumpFlush
    split
    case isTrue hlife => exact .inl (hdestroyed hlife (by simp [hpoint]))
    case isFalse hlife => exact .inr (.pumpFlush l q hflight hpoint hlife)
  case h_7 q hpoint =>
    unfold State.pumpAdjust
    split
    case isTrue hlife => exact .inl (hdestroyed hlife (by simp [hpoint]))
    case isFalse hlife => exact .inl (Ends.pumpAdjust l q hflight hpoint hlife).answers

theorem exec_pump_cases (s : State) :
    ∃ t, exec .pump s = .next t ∧ (Answers s .pump t ∨ GoesOn s .pump t) := by
  refine ⟨_, rfl, ?_⟩
  split
  case h_1 l hflight => exact pumpNext_cases hflight
  case h_2 hflight =>
    unfold State.pumpStart
    split
    case isTrue => exact .inl (Ends.unchanged (by simp) fun l _ => hflight l).answers
    case isFalse hlife => exact .inr (.pumpStart hflight (Bool.eq_false_iff.mpr hlife))

theorem exec_initializeBlock_cases (s : State) :
    ∃ t, exec .initializeBlock s = .next t ∧ Answers s .initializeBlock t := by
  refine ⟨_, rfl, ?_⟩
  split
  case isTrue hlife =>
    split
    case isTrue hopen => exact (Ends.openOk hlife hopen).answers
    case isFalse hopen => exact (Ends.openFail hlife (Bool.eq_false_iff.mpr hopen)).answers
  case isFalse => exact .unchanged (by simp) (by simp)

theorem exec_destroy_cases (s : State) :
    ∃ t, exec .destroy s = .next t ∧ Answers s .destroy t := by
  refine ⟨_, rfl, ?_⟩
  split
  case h_1 => exact .unchanged (by simp) (by simp)
  case h_2 hlife => exact (Ends.destroyUnopened hlife).answers
  case h_3 hd hu => exact (Ends.destroyOpen (Life.active_of_ne hu hd)).answers

/-- Every instruction: it is answered, or it is a command of port C that goes on. -/
theorem exec_cases {i : Instr} {s t : State} (h : exec i s = .next t) :
    Answers s i t ∨ GoesOn s i t := by
  suffices ∃ u, exec i s = .next u ∧ (Answers s i u ∨ GoesOn s i u) by
    obtain ⟨u, hu, hcases⟩ := this
    obtain rfl : u = t := Host.Outcome.next.inj (hu.symm.trans h)
    exact hcases
  have hanswers {i : Instr} (h : ∃ u, exec i s = .next u ∧ Answers s i u) :
      ∃ u, exec i s = .next u ∧ (Answers s i u ∨ GoesOn s i u) :=
    h.imp fun _ ⟨hu, ha⟩ => ⟨hu, .inl ha⟩
  cases i with
  | cycle b => exact hanswers (exec_cycle_cases b s)
  | push x => exact hanswers (exec_push_cases x s)
  | popBlock n => exact exec_popBlock_cases n s
  | pump => exact exec_pump_cases s
  | initializeBlock => exact hanswers (exec_initializeBlock_cases s)
  | destroy => exact hanswers (exec_destroy_cases s)
  | occupancy =>
    refine ⟨_, rfl, .inl ?_⟩
    split <;> exact .unchanged (by simp) (by simp)
  | readReg r =>
    refine ⟨_, rfl, .inl ?_⟩
    split <;> exact .unchanged (by simp) (by simp)
  | isPlaying => exact ⟨_, rfl, .inl (.unchanged (by simp) (by simp))⟩
  | exportRecord =>
    refine ⟨_, rfl, .inl ?_⟩
    split <;> exact .unchanged (by simp) (by simp)
  | beginPlay =>
    refine ⟨_, rfl, .inl ?_⟩
    split
    case isTrue => exact .unchanged (by simp) (by simp)
    case isFalse hlife => exact (Ends.beginPlay (Bool.eq_false_iff.mpr hlife)).answers
  | stopPlay =>
    refine ⟨_, rfl, .inl ?_⟩
    split
    case isTrue => exact .unchanged (by simp) (by simp)
    case isFalse hlife => exact (Ends.stopPlay (Bool.eq_false_iff.mpr hlife)).answers
  | enable =>
    refine ⟨_, rfl, .inl ?_⟩
    split
    case isTrue => exact .unchanged (by simp) (by simp)
    case isFalse hlife => exact (Ends.enable hlife).answers
  | disable =>
    refine ⟨_, rfl, .inl ?_⟩
    split
    case isTrue => exact .unchanged (by simp) (by simp)
    case isFalse hlife => exact (Ends.disable hlife).answers
  | importRecord ev en cv cps =>
    refine ⟨_, rfl, .inl ?_⟩
    split
    case isTrue => exact .unchanged (by simp) (by simp)
    case isFalse hlife => exact (Ends.importRecord ev en cv cps hlife).answers

/-- A property that a response does not touch holds after a step when the turn and every action of the
port's instructions give it. -/
theorem step_keeps {P : State → Prop} {s t : State} (h : step s = .next t) (hturn : P s.takeTurn)
    (hrespond : ∀ {u}, P u → ∀ st count data xs, P (u.respond st count data xs))
    (hends : ∀ i u, s.takeTurn.port ∈ i.ports → Ends s.takeTurn i u → P u)
    (hgoes : ∀ i u, s.takeTurn.port ∈ i.ports → GoesOn s.takeTurn i u → P u) : P t := by
  obtain ⟨-, ⟨-, rfl⟩ | ⟨w, ws, -, ⟨e, -, rfl⟩ | ⟨i, -, hport, hexec⟩⟩⟩ := step_cases h
  · exact hturn
  · exact hrespond hturn _ _ _ _
  · obtain ⟨u, st, count, data, xs, hu, rfl⟩ | hu := exec_cases hexec
    · exact hrespond (hends i u hport hu) _ _ _ _
    · exact hgoes i t hport hu

end Sys2Proof.Machine

/-! PROOFS. What every step keeps: a good state stays good (10_state.md R35, 40_sample_clock.md R137 and
R141, 41_ring_buffer.md R161), action by action. -/

namespace Sys2Proof.Machine

/-! ### Good states: the turn, the response, the command in flight -/

theorem State.Inv.takeTurn {s : State} (hs : s.Inv) : s.takeTurn.Inv := by
  unfold State.takeTurn
  split <;> exact { hs with }

/-- A response keeps a state good as long as it does not take a flying command's word away. -/
theorem State.Inv.respond {s : State} (hs : s.Inv) (h : s.port = .consumer → s.flight = .idle)
    (st : Status) (count : BitVec 32) (data : BitVec 64) (xs : List Sample) :
    (s.respond st count data xs).Inv := by
  refine { hs with flight_matches := ?_ }
  unfold State.FlightMatches
  by_cases hport : s.port = .consumer
  · rw [State.respond_flight, h hport]
    trivial
  · simpa [State.FlightMatches, hport] using hs.flight_matches

/-- The oldest word on port C is the command `i`. -/
def State.Head (s : State) (i : Instr) : Prop :=
  ∃ w, s.inC.head? = some w ∧ decode .consumer w = .ok i

theorem State.Head.unique {s : State} {i j : Instr} (hi : s.Head i) (hj : s.Head j) : i = j := by
  obtain ⟨w, hw, hdec⟩ := hi
  obtain ⟨w', hw', hdec'⟩ := hj
  obtain rfl : w = w' := Option.some.inj (hw.symm.trans hw')
  exact Except.ok.inj (hdec.symm.trans hdec')

theorem State.Inv.head_of_pop {s : State} (hs : s.Inv) (h : s.flight = .pop) :
    ∃ n, s.Head (.popBlock n) := by
  have hmatch := hs.flight_matches
  unfold State.FlightMatches at hmatch
  rw [h] at hmatch
  obtain ⟨w, n, hw, hdec⟩ := hmatch
  exact ⟨n, w, hw, hdec⟩

theorem State.Inv.head_of_pump {s : State} {l : PumpFlight} (hs : s.Inv) (h : s.flight = .pump l) :
    s.Head .pump := by
  have hmatch := hs.flight_matches
  unfold State.FlightMatches at hmatch
  rwa [h] at hmatch

/-- Nothing is in flight before INITIALIZE. -/
theorem State.Inv.idle_of_uninit {s : State} (hs : s.Inv) (h : s.life = .uninit) : s.flight = .idle := by
  by_contra hflight
  exact hs.flight_life hflight h

/-- The oldest word on port C is a command with nothing in flight, when its own flight has not begun. -/
theorem State.Inv.idle_of_head {s : State} {i : Instr} (hs : s.Inv) (hhead : s.Head i)
    (hpop : ∀ n, i = .popBlock n → s.flight ≠ .pop) (hpump : ∀ l, i = .pump → s.flight ≠ .pump l) :
    s.flight = .idle := by
  cases hf : s.flight with
  | idle => rfl
  | pop =>
    obtain ⟨n, hn⟩ := hs.head_of_pop hf
    exact absurd hf (hpop n (hhead.unique hn))
  | pump l => exact absurd hf (hpump l (hhead.unique (hs.head_of_pump hf)))

/-- Without a legal word first on port C nothing is in flight. -/
theorem State.Inv.idle_of_no_head {s : State} (hs : s.Inv) (hno : ∀ i, ¬ s.Head i) :
    s.flight = .idle := by
  cases hf : s.flight with
  | idle => rfl
  | pop =>
    obtain ⟨n, hn⟩ := hs.head_of_pop hf
    exact absurd hn (hno _)
  | pump l => exact absurd (hs.head_of_pump hf) (hno _)

theorem State.Inv.ctActive_of_idle {s : State} (hs : s.Inv) (hidle : s.flight = .idle) :
    s.ctActive = false := by
  rw [hs.ct_active, hidle]
  rfl

/-- Past a claim, the claimed samples are still in the ring (41_ring_buffer.md R165). -/
theorem State.Inv.claim_of_pop {s : State} (hs : s.Inv) (h : s.flight = .pop) :
    s.ctK.toNat ≤ s.occupancy ∧ s.ctR0.toNat < s.cfg.capacity ∧ s.ctOut.length ≤ s.ctK.toNat :=
  hs.ct_ok (by rw [h]; rfl)

theorem inPop_pump {l : PumpFlight} : (Flight.pump l).inPop = true ↔ l.point = .popping := by
  simp [Flight.inPop]

theorem inPop_pump_of_ne {l : PumpFlight} (h : l.point ≠ .popping) : (Flight.pump l).inPop = false := by
  simp [Flight.inPop, h]

theorem State.Inv.claim_of_popping {s : State} {l : PumpFlight} (hs : s.Inv) (h : s.flight = .pump l)
    (hpoint : l.point = .popping) :
    s.ctK.toNat ≤ s.occupancy ∧ s.ctR0.toNat < s.cfg.capacity ∧ s.ctOut.length ≤ s.ctK.toNat :=
  hs.ct_ok (by rw [h]; exact inPop_pump.mpr hpoint)

/-- PUMP's claim takes at least one sample and at most a block (43_output_pump.md R225). -/
theorem State.Inv.block_of_popping {s : State} {l : PumpFlight} (hs : s.Inv) (h : s.flight = .pump l)
    (hpoint : l.point = .popping) : 1 ≤ s.ctK.toNat ∧ s.ctK.toNat ≤ s.cfg.block := by
  have hok := hs.pump_ok l h
  unfold State.PumpOk at hok
  rwa [hpoint] at hok

theorem State.Inv.claim_pending {s : State} {l : PumpFlight} (hs : s.Inv) (h : s.flight = .pump l)
    (hpoint : l.point = .claim) : s.cfg.pushThreshold < s.occupancy := by
  have hok := hs.pump_ok l h
  unfold State.PumpOk at hok
  rwa [hpoint] at hok

/-- What PUMP offers to the sink: only with the gate open, at least one sample and at most a block
(43_output_pump.md R224, R225). -/
theorem State.Inv.offer {s : State} {l : PumpFlight} {xs : List Sample} (hs : s.Inv)
    (h : s.flight = .pump l)
    (hpoint : l.point = .offerBlock xs ∨ (l.point = .offerPending ∧ xs = s.pending)) :
    l.fwd = true ∧ 1 ≤ xs.length ∧ xs.length ≤ s.cfg.block := by
  have hok := hs.pump_ok l h
  unfold State.PumpOk at hok
  obtain hpoint | ⟨hpoint, rfl⟩ := hpoint
  · rwa [hpoint] at hok
  · rw [hpoint] at hok
    obtain ⟨hfwd, hlen⟩ := hok
    rw [State.pending_length]
    exact ⟨hfwd, hlen, hs.pendLen_le⟩

/-- A command in flight may be replaced by another point of it, or end, outside a pop. -/
theorem State.Inv.setFlight {s : State} (hs : s.Inv) {f : Flight} (hin : s.flight.inPop = false)
    (hf : f.inPop = false) (hmatch : { s with flight := f }.FlightMatches)
    (hlife : f ≠ .idle → s.life ≠ .uninit)
    (hok : ∀ l, f = .pump l → { s with flight := f }.PumpOk l) : { s with flight := f }.Inv :=
  { hs with
    flight_matches := hmatch
    flight_life := hlife
    ct_active := hs.ct_active.trans (hin.trans hf.symm)
    ct_ok := fun h => absurd (hf.symm.trans h) Bool.false_ne_true
    pump_ok := hok }

/-- A PUMP in flight goes to a point that asks nothing of the state. -/
theorem State.Inv.setPump {s : State} {l l' : PumpFlight} (hs : s.Inv) (hflight : s.flight = .pump l)
    (hpoint : l.point ≠ .popping) (hpoint' : l'.point ≠ .popping)
    (hok : { s with flight := .pump l' }.PumpOk l') : { s with flight := .pump l' }.Inv :=
  hs.setFlight (by rw [hflight]; exact inPop_pump_of_ne hpoint) (inPop_pump_of_ne hpoint')
    (hs.head_of_pump hflight) (fun _ => hs.flight_life (by simp [hflight]))
    fun m hm => by
      injection hm with hm
      exact hm ▸ hok

/-! ### The clock (40_sample_clock.md) -/

theorem State.Inv.countCycle {s : State} (hs : s.Inv) (b : Bool) (hlt : s.countedElapsed < s.cps.toNat) :
    (s.countCycle b).Inv :=
  { hs with
    highacc_le := by
      rw [State.countCycle_highacc_toNat b hs, State.countCycle_elapsed_toNat b hs]
      exact State.countedHigh_le b hs.highacc_le
    elapsed_lt := by
      rw [State.countCycle_elapsed_toNat b hs]
      exact (hlt.trans_le hs.cps_range.2).trans_le (Nat.le_add_right _ _) }

/-- The residual of an emission keeps `HIGHACC <= ELAPSED` (R135, R137). -/
theorem mul_div_le_of_le {h e r : Nat} (hhe : h ≤ e) : h * r / e ≤ r :=
  Nat.div_le_of_le_mul (Nat.mul_le_mul_right r hhe)

theorem State.carryResidual_elapsed_toNat {s : State} {h e : Nat} (he : e < 2 ^ 64) :
    (s.carryResidual h e).elapsed.toNat = e - s.cps.toNat := by
  rw [State.carryResidual_elapsed, BitVec.toNat_ofNat, Nat.mod_eq_of_lt (by omega)]

theorem State.carryResidual_highacc_toNat {s : State} {h e : Nat} (hhe : h ≤ e) (he : e < 2 ^ 64) :
    (s.carryResidual h e).highacc.toNat = h * (e - s.cps.toNat) / e := by
  have hle := mul_div_le_of_le (r := e - s.cps.toNat) hhe
  rw [State.carryResidual_highacc, BitVec.toNat_ofNat, Nat.mod_eq_of_lt (by omega)]

/-- The counted window of an emission leaves a residual within the bound of R141 (a). -/
theorem State.Inv.residual {s : State} (hs : s.Inv) (b : Bool) :
    ((s.countCycle b).carryResidual (s.countedHigh b) s.countedElapsed).Inv :=
  { hs with
    highacc_le := by
      have hhe := State.countedHigh_le b hs.highacc_le
      have he := State.countedElapsed_lt hs
      rw [State.carryResidual_highacc_toNat hhe he, State.carryResidual_elapsed_toNat he]
      exact mul_div_le_of_le hhe
    elapsed_lt := by
      have hbounds := Config.bounds_of_legal hs.legal
      have hcps := hs.cps_range
      have helapsed := hs.elapsed_lt
      rw [State.carryResidual_elapsed_toNat (State.countedElapsed_lt hs)]
      simp only [State.countCycle_cps, State.carryResidual_cfg, State.countCycle_cfg,
        State.countedElapsed]
      omega }

/-! ### The ring (41_ring_buffer.md) -/

theorem State.pushSample_occupancy_ge {s : State} (hs : s.Inv) (x : Sample) :
    s.occupancy ≤ (s.pushSample x).occupancy := by
  rw [State.pushSample_occupancy x hs.legal hs.rptr_lt hs.occupancy_le,
    State.dropsOnPush_eq hs.legal hs.occupancy_le]
  split <;> omega

theorem State.Inv.pushSample {s : State} (hs : s.Inv) (x : Sample) : (s.pushSample x).Inv := by
  have hpos := (Config.capacity_of_legal hs.legal).1
  have hgrow := State.pushSample_occupancy_ge hs x
  obtain ⟨hwf, hcells⟩ := hs.store_ok
  exact
    { hs with
      wptr_lt := by
        rw [State.pushSample_wptr_toNat x hs.legal]
        exact Nat.mod_lt _ hpos
      rptr_lt := by
        rw [State.pushSample_rptr_toNat x hs.legal hs.rptr_lt]
        exact Nat.mod_lt _ hpos
      occupancy_le := by
        have hocc := hs.occupancy_le
        rw [State.pushSample_occupancy x hs.legal hs.rptr_lt hocc,
          State.dropsOnPush_eq hs.legal hocc, State.pushSample_cfg]
        split <;> omega
      store_ok := by
        refine ⟨State.pushSample_wf x hwf, fun c hc => ?_⟩
        rcases Memory.mem_write hc with rfl | hc
        · exact hs.wptr_lt
        · exact hcells c hc
      ct_ok := fun h => by
        obtain ⟨hk, hr0, hout⟩ := hs.ct_ok h
        exact ⟨hk.trans hgrow, hr0, hout⟩
      pump_ok := fun l hl => by
        have hok := hs.pump_ok l hl
        unfold State.PumpOk at hok ⊢
        split at hok
        case h_1 => exact lt_of_lt_of_le hok hgrow
        all_goals exact hok }

/-- A claim of a good state is good in the flight of its command (R165). -/
theorem State.Inv.popClaim {s : State} (hs : s.Inv) (n : Nat) {f : Flight} (hf : f.inPop = true)
    (hlife : s.life ≠ .uninit) (hmatch : { s with flight := f }.FlightMatches)
    (hok : ∀ l, f = .pump l → { s.popClaim n with flight := f }.PumpOk l) :
    { s.popClaim n with flight := f }.Inv :=
  { hs with
    flight_matches := hmatch
    flight_life := fun _ => hlife
    ct_active := hf.symm
    ct_ok := fun _ => ⟨by
      rw [State.popClaim_ctK_toNat hs.legal hs.occupancy_le]
      exact min_le_right _ _, hs.rptr_lt, Nat.zero_le _⟩
    pump_ok := hok }

theorem State.Inv.popCopy {s : State} (hs : s.Inv) (hin : s.flight.inPop = true)
    (hlen : s.ctOut.length < s.ctK.toNat) : s.popCopy.Inv :=
  { hs with
    ct_ok := fun _ => by
      obtain ⟨hk, hr0, -⟩ := hs.ct_ok hin
      exact ⟨hk, hr0, by simpa using hlen⟩ }

/-- The commit moves `RPTR` within the live region (R166). -/
theorem State.Inv.popCommit {s : State} (hs : s.Inv) (hin : s.flight.inPop = true) {f : Flight}
    (hf : f.inPop = false) (hmatch : { s with flight := f }.FlightMatches)
    (hok : ∀ l, f = .pump l → { s.popCommit with flight := f }.PumpOk l) :
    { s.popCommit with flight := f }.Inv :=
  have hk := (hs.ct_ok hin).1
  have hflight : s.flight ≠ .idle := fun h => by
    rw [h] at hin
    cases hin
  { hs with
    rptr_lt := by
      show s.popCommit.rptr.toNat < s.cfg.capacity
      rw [State.popCommit_rptr_toNat hs.legal]
      exact Nat.mod_lt _ (Config.capacity_of_legal hs.legal).1
    occupancy_le := by
      show s.popCommit.occupancy ≤ s.cfg.dropHwm
      rw [State.popCommit_occupancy hs.legal hs.rptr_lt hk]
      exact (Nat.sub_le _ _).trans hs.occupancy_le
    flight_matches := hmatch
    flight_life := fun _ => hs.flight_life hflight
    ct_active := hf.symm
    ct_ok := fun h => absurd (hf.symm.trans h) Bool.false_ne_true
    pump_ok := hok }

theorem State.Inv.popAbandon {s : State} (hs : s.Inv) : { s.popAbandon with flight := .idle }.Inv :=
  { hs with
    flight_matches := trivial
    flight_life := fun h => absurd rfl h
    ct_active := rfl
    ct_ok := fun h => nomatch h
    pump_ok := fun _ h => nomatch h }

/-! ### The sink and the rate (43_output_pump.md, 42_rate_adapter.md) -/

theorem State.Inv.sinkEnqueue {s : State} (hs : s.Inv) (xs : List Sample) : (s.sinkEnqueue xs).Inv :=
  { hs with }

/-- A pending tail within a block keeps `Pend` within its array (R224). -/
theorem State.Inv.setPending {s : State} {l : PumpFlight} (hs : s.Inv) (hflight : s.flight = .pump l)
    {tail : List Sample} (hlen : tail.length ≤ s.cfg.block) {l' : PumpFlight}
    (hpoint : l.point ≠ .popping) (hpoint' : l'.point = .queuedDepth) :
    { s.setPending tail with flight := .pump l' }.Inv := by
  have hbounds := Config.bounds_of_legal hs.legal
  obtain ⟨hwf, hcells⟩ := hs.pend_ok
  have hflightInv := hs.setPump (l' := l') hflight hpoint (by simp [hpoint'])
    (by unfold State.PumpOk; rw [hpoint']; trivial)
  exact
    { hflightInv with
      pendLen_le := by
        show (BitVec.ofNat 32 tail.length).toNat ≤ s.cfg.block
        rw [BitVec.toNat_ofNat, Nat.mod_eq_of_lt (by omega)]
        exact hlen
      pend_ok := by
        refine ⟨State.setPending_wf tail hwf, fun c hc => ?_⟩
        rcases Memory.mem_writeList hc with ⟨-, hlt⟩ | hc
        · show c.1 < s.cfg.block
          omega
        · exact hcells c hc
      pump_ok := fun m hm => by
        injection hm with hm
        unfold State.PumpOk
        rw [← hm, hpoint']
        trivial }

/-- The rate stays within its bounds and nothing else moves (R202). -/
theorem State.rateAdjust_cps_range {s : State} (hs : s.Inv) (v : Nat) :
    s.cfg.cpsMin ≤ (s.rateAdjust v).cps.toNat ∧ (s.rateAdjust v).cps.toNat ≤ s.cfg.cpsMax := by
  rw [State.rateAdjust_cps_eq]
  split
  · exact clampCps_range hs.legal _
  · split
    · exact clampCps_range hs.legal _
    · exact hs.cps_range

/-- RATE_ADJUST writes `CPS` alone (R200). -/
theorem State.rateAdjust_eq (v : Nat) (s : State) :
    s.rateAdjust v = { s with cps := (s.rateAdjust v).cps } := by
  unfold State.rateAdjust
  split <;> [rfl; (split <;> rfl)]

theorem State.Inv.rateAdjust {s : State} (hs : s.Inv) (v : Nat) : (s.rateAdjust v).Inv := by
  have hrange := State.rateAdjust_cps_range hs v
  rw [State.rateAdjust_eq]
  exact { hs with cps_range := hrange }

/-! ### The commands of port H (44_playback_control.md) -/

theorem cpsNominal_toNat {c : Config} (hl : c.Legal) :
    (BitVec.ofNat 32 c.cpsNominal).toNat = c.cpsNominal := by
  have hbounds := Config.bounds_of_legal hl
  rw [BitVec.toNat_ofNat, Nat.mod_eq_of_lt (by omega)]

theorem cpsNominal_range {c : Config} (hl : c.Legal) :
    c.cpsMin ≤ (BitVec.ofNat 32 c.cpsNominal).toNat ∧
      (BitVec.ofNat 32 c.cpsNominal).toNat ≤ c.cpsMax := by
  have hbounds := Config.bounds_of_legal hl
  rw [cpsNominal_toNat hl]
  omega

/-- Equal cursors make an empty ring. -/
theorem modSub_self (a c : Nat) : modSub a a c = 0 := by
  simp [modSub]

theorem State.setDefaults_occupancy (s : State) : s.setDefaults.occupancy = 0 := modSub_self 0 _

/-- INITIALIZE leads to a good state, because nothing is in flight before it (R251). -/
theorem State.Inv.setDefaults {s : State} (hs : s.Inv) (hlife : s.life = .uninit) :
    s.setDefaults.Inv :=
  have hidle : s.setDefaults.flight = .idle := hs.idle_of_uninit hlife
  have hpos : 0 < s.cfg.capacity := (Config.capacity_of_legal hs.legal).1
  { hs with
    cps_range := cpsNominal_range hs.legal
    wptr_lt := hpos
    rptr_lt := hpos
    occupancy_le := by
      rw [State.setDefaults_occupancy]
      exact Nat.zero_le _
    pendLen_le := Nat.zero_le _
    highacc_le := le_refl _
    elapsed_lt := by
      have hbounds := Config.bounds_of_legal hs.legal
      show 0 < s.cfg.cpsMax + s.cfg.unit
      omega
    flight_life := fun h => absurd hidle h
    ct_ok := fun h => by
      rw [hidle] at h
      cases h
    pump_ok := fun l h => by
      rw [hidle] at h
      cases h }

theorem State.Inv.sinkOpen {s : State} (hs : s.Inv) : s.sinkOpen.Inv := { hs with }

/-- Leaving UNINIT, or staying out of it, keeps a state good. -/
theorem State.Inv.setLife {s : State} (hs : s.Inv) {l : Life} (hl : l ≠ .uninit) :
    { s with life := l }.Inv :=
  { hs with flight_life := fun _ => hl }

theorem State.Inv.callSink {s : State} (hs : s.Inv) (k : SinkCall) : (s.callSink k).Inv := { hs with }

theorem State.Inv.importFields {s : State} (hs : s.Inv) (ev en cv : Bool) (cps : BitVec 32) :
    (s.importFields ev en cv cps).Inv :=
  { hs with
    cps_range := by
      rw [State.importFields_cps]
      split
      · exact clampCps_range hs.legal _
      · exact cpsNominal_range hs.legal }

/-! ### Every action -/

/-- An action that ends its command leaves a good state, before the response. -/
theorem Ends.inv {s u : State} {i : Instr} (h : Ends s i u) (hs : s.Inv) : u.Inv := by
  cases h with
  | unchanged => exact hs
  | count b hlife hlt => exact hs.countCycle b hlt
  | emit b hlife hge => exact (hs.residual b).pushSample _
  | push x hlife => exact hs.pushSample x
  | popCommit n hflight hlen hlife =>
    exact hs.popCommit (by rw [hflight]; rfl) rfl trivial fun _ h => nomatch h
  | popAbandon n hflight hlife => exact hs.popAbandon
  | pumpInert l hflight hpoint hlife =>
    exact hs.setFlight (by rw [hflight]; exact inPop_pump_of_ne hpoint) rfl trivial
      (fun h => absurd rfl h) fun _ h => nomatch h
  | pumpAbandon l hflight hpoint hlife => exact hs.popAbandon
  | pumpAdjust l q hflight hpoint hlife =>
    refine (hs.rateAdjust _).setFlight ?_ rfl trivial (fun h => absurd rfl h) fun _ h => nomatch h
    rw [State.rateAdjust_flight, hflight]
    exact inPop_pump_of_ne (by simp [hpoint])
  | openOk hlife hopen => exact hs.sinkOpen.setDefaults hlife
  | openFail hlife hopen => exact hs.sinkOpen
  | beginPlay hlife => exact hs.setLife (by simp)
  | stopPlay hlife => exact hs.setLife (by simp)
  | enable hlife => exact { hs with }
  | disable hlife => exact { hs with }
  | importRecord ev en cv cps hlife => exact hs.importFields ev en cv cps
  | destroyUnopened hlife => exact hs.setLife (by simp)
  | destroyOpen hlife => exact (hs.callSink .close).setLife (by simp)

/-- Where PUMP's step 2 begins agrees with the state (R223 to R225). -/
theorem pumpOk_pumpStep2 {s : State} {l : PumpFlight} (hfwd : l.fwd = s.gate)
    (hpoint : l.point = pumpStep2 s.cfg s.gate s.occupancy s.pendLen.toNat) :
    { s with pendLen := if s.gate then s.pendLen else 0, flight := .pump l }.PumpOk l := by
  unfold State.PumpOk
  unfold pumpStep2 at hpoint
  split at hpoint
  case isTrue hpending =>
    obtain ⟨hgate, hpos⟩ := hpending
    rw [hpoint]
    simp only [hgate, if_true]
    exact ⟨hfwd.trans hgate, hpos⟩
  case isFalse =>
    split at hpoint
    case isTrue hocc =>
      rw [hpoint]
      exact hocc
    case isFalse =>
      rw [hpoint]
      trivial

theorem pumpStep2_ne_popping (c : Config) (fwd : Bool) (occ pendLen : Nat) :
    pumpStep2 c fwd occ pendLen ≠ .popping := by
  unfold pumpStep2
  split
  · simp
  · split <;> simp

/-- An action that leaves its command in flight leaves a good state, when the command is the oldest word
on port C. -/
theorem GoesOn.inv {s u : State} {i : Instr} (h : GoesOn s i u) (hs : s.Inv) (hhead : s.Head i) :
    u.Inv := by
  cases h with
  | popClaim n hflight hlife =>
    obtain ⟨w, hw, hdec⟩ := hhead
    exact hs.popClaim _ rfl (Life.ne_uninit_of_active hlife) ⟨w, n, hw, hdec⟩ fun _ h => nomatch h
  | popCopy n hflight hlen => exact hs.popCopy (by rw [hflight]; rfl) hlen
  | pumpStart hflight hlife =>
    have hidle := hs.idle_of_head hhead (by simp) fun l _ => hflight l
    have hpend : (if s.gate then s.pendLen else 0).toNat ≤ s.cfg.block := by
      split
      · exact hs.pendLen_le
      · exact Nat.zero_le _
    refine
      { hs with
        pendLen_le := hpend
        flight_matches := hhead
        flight_life := fun _ => Life.ne_uninit_of_active hlife
        ct_active := ?_
        ct_ok := fun h => ?_
        pump_ok := fun m hm => ?_ }
    · exact (hs.ctActive_of_idle hidle).trans (inPop_pump_of_ne (pumpStep2_ne_popping _ _ _ _)).symm
    · exact absurd (inPop_pump.mp h) (pumpStep2_ne_popping _ _ _ _)
    · injection hm with hm
      subst hm
      exact pumpOk_pumpStep2 rfl rfl
  | pumpClaim l hflight hpoint hlife =>
    have hbounds := Config.bounds_of_legal hs.legal
    have hocc := hs.claim_pending hflight hpoint
    refine hs.popClaim _ (inPop_pump.mpr rfl) (Life.ne_uninit_of_active hlife) hhead fun m hm => ?_
    injection hm with hm
    subst hm
    show 1 ≤ (s.popClaim s.cfg.block).ctK.toNat ∧ (s.popClaim s.cfg.block).ctK.toNat ≤ s.cfg.block
    rw [State.popClaim_ctK_toNat hs.legal hs.occupancy_le]
    omega
  | pumpCopy l hflight hpoint hlen =>
    exact hs.popCopy (by rw [hflight]; exact inPop_pump.mpr hpoint) hlen
  | pumpCommit l hflight hpoint hlen hlife =>
    obtain ⟨hone, hblock⟩ := hs.block_of_popping hflight hpoint
    have hout := (hs.claim_of_popping hflight hpoint).2.2
    refine hs.popCommit (by rw [hflight]; exact inPop_pump.mpr hpoint) (inPop_pump_of_ne ?_) hhead
      fun m hm => ?_
    · simp only
      split <;> simp
    · injection hm with hm
      subst hm
      unfold State.PumpOk
      by_cases hfwd : l.fwd = true
      · simp only [hfwd, if_true]
        exact ⟨trivial, by omega, by show s.ctOut.length ≤ s.cfg.block; omega⟩
      · simp only [hfwd]
        trivial
  | pumpOffer l xs hflight hpoint hlife =>
    obtain ⟨-, -, hblock⟩ := hs.offer hflight hpoint
    have hne : l.point ≠ .popping := by rcases hpoint with h | ⟨h, -⟩ <;> simp [h]
    exact (hs.sinkEnqueue xs).setPending hflight (by simp; omega) hne rfl
  | pumpDepth l hflight hpoint hlife =>
    have hsink : s.sinkQueuedDepth.Inv := { hs with }
    refine hsink.setPump hflight (by simp [hpoint]) ?_ ?_
    · simp only
      split <;> simp
    · unfold State.PumpOk
      by_cases hdeep : s.cfg.sinkFlushDepth.toNat < s.nextDepth.toNat <;> simp [hdeep]
  | pumpFlush l q hflight hpoint hlife =>
    exact (hs.callSink .flush).setPump hflight (by simp [hpoint]) (by simp) trivial

/-! ### The queues and the flight across an action -/

theorem Ends.queues {s u : State} {i : Instr} (h : Ends s i u) :
    u.port = s.port ∧ u.inbox = s.inbox ∧ u.outbox = s.outbox := by
  cases h with
  | pumpAdjust l q hflight hpoint hlife =>
    refine ⟨State.rateAdjust_port _ _, ?_, ?_⟩
    · funext q
      cases q <;> simp [State.inbox]
    · funext q
      cases q <;> simp [State.outbox]
  | _ => exact ⟨rfl, rfl, rfl⟩

theorem GoesOn.queues {s u : State} {i : Instr} (h : GoesOn s i u) :
    u.inbox = s.inbox ∧ u.outbox = s.outbox := by
  cases h <;> exact ⟨rfl, rfl⟩

/-- What goes on is a command of port C, and it is in flight afterwards. -/
theorem GoesOn.flight_ne_idle {s u : State} {i : Instr} (h : GoesOn s i u) : u.flight ≠ .idle := by
  cases h with
  | popCopy n hflight => simp [hflight]
  | pumpCopy l hflight => simp [hflight]
  | _ => simp

theorem GoesOn.consumer {s u : State} {i : Instr} {q : Port} (h : GoesOn s i u) (hq : q ∈ i.ports) :
    q = .consumer := by
  cases h <;> simpa [Instr.ports] using hq

/-- The command that ends is in flight no more. -/
theorem Ends.flight_idle {s u : State} {i : Instr} (h : Ends s i u) (hs : s.Inv) (hhead : s.Head i)
    (hport : .consumer ∈ i.ports) : u.flight = .idle := by
  cases h with
  | unchanged hpop hpump => exact hs.idle_of_head hhead hpop hpump
  | popCommit | popAbandon | pumpInert | pumpAbandon | pumpAdjust => rfl
  | _ => simp [Instr.ports] at hport

theorem State.head_of_inbox {s : State} {w : CommandWord} {ws : List CommandWord} {i : Instr}
    (hin : s.inbox .consumer = w :: ws) (hdec : decode .consumer w = .ok i) : s.Head i :=
  ⟨w, by rw [show s.inC = w :: ws from hin, List.head?_cons], hdec⟩

/-- An illegal word on port C is answered with nothing in flight. -/
theorem State.Inv.idle_of_illegal {s : State} {w : CommandWord} {ws : List CommandWord} {e : Illegal}
    (hs : s.Inv) (hin : s.inbox .consumer = w :: ws) (hdec : decode .consumer w = .error e) :
    s.flight = .idle := by
  refine hs.idle_of_no_head ?_
  rintro i ⟨w', hw', hdec'⟩
  rw [show s.inC = w :: ws from hin, List.head?_cons] at hw'
  obtain rfl := Option.some.inj hw'
  rw [hdec] at hdec'
  cases hdec'

/-- What a step from a good state does, with the facts of the flight that go with each way: an empty
queue, an illegal word, a command that ends, a command of port C that goes on. `u` is the state with the
turn taken. -/
inductive StepDoes (s t : State) : Prop
  | noCommand (hin : s.inbox s.takeTurn.port = []) (ht : t = s.takeTurn)
  | illegal (hin : s.inbox s.takeTurn.port ≠ [])
      (hidle : s.takeTurn.port = .consumer → s.takeTurn.flight = .idle)
      (ht : t = s.takeTurn.respond .illegal 0 0 [])
  | ends (i : Instr) (u : State) (st : Status) (count : BitVec 32) (data : BitVec 64) (xs : List Sample)
      (hin : s.inbox s.takeTurn.port ≠ []) (hport : s.takeTurn.port ∈ i.ports)
      (hhead : s.takeTurn.port = .consumer → s.takeTurn.Head i) (hends : Ends s.takeTurn i u)
      (hidle : s.takeTurn.port = .consumer → u.flight = .idle) (ht : t = u.respond st count data xs)
  | goesOn (i : Instr) (hin : s.inbox s.takeTurn.port ≠ []) (hport : s.takeTurn.port = .consumer)
      (hhead : s.takeTurn.Head i) (hgoes : GoesOn s.takeTurn i t)

theorem step_does {s t : State} (hs : s.Inv) (h : step s = .next t) : StepDoes s t := by
  have hs' := hs.takeTurn
  obtain ⟨-, ⟨hin, ht⟩ | ⟨w, ws, hin, hverdict⟩⟩ := step_cases h
  · exact .noCommand hin ht
  · have hne : s.inbox s.takeTurn.port ≠ [] := by simp [hin]
    have hin' : s.takeTurn.inbox s.takeTurn.port = w :: ws := by rwa [State.takeTurn_inbox]
    obtain ⟨e, hdec, ht⟩ | ⟨i, hdec, hport, hexec⟩ := hverdict
    · refine .illegal hne (fun hc => ?_) ht
      rw [hc] at hin' hdec
      exact hs'.idle_of_illegal hin' hdec
    · have hhead (hc : s.takeTurn.port = .consumer) : s.takeTurn.Head i := by
        rw [hc] at hin' hdec
        exact State.head_of_inbox hin' hdec
      obtain ⟨u, st, count, data, xs, hends, ht⟩ | hgoes := exec_cases hexec
      · exact .ends i u st count data xs hne hport hhead hends
          (fun hc => hends.flight_idle hs' (hhead hc) (hc ▸ hport)) ht
      · have hc := hgoes.consumer hport
        exact .goesOn i hne hc (hhead hc) hgoes

/-- Settles O16: each change an action can make keeps the state good, and so do the turn and the
response. -/
theorem stepKeepsTheStateGood : Obligations.StepKeepsTheStateGood := by
  intro s t hs h
  have hs' := hs.takeTurn
  cases step_does hs h with
  | noCommand hin ht => exact ht ▸ hs'
  | illegal hin hidle ht => exact ht ▸ hs'.respond hidle _ _ _ _
  | ends i u st count data xs hin hport hhead hends hidle ht =>
    exact ht ▸ (hends.inv hs').respond (fun hc => hidle (hends.queues.1 ▸ hc)) _ _ _ _
  | goesOn i hin hport hhead hgoes => exact hgoes.inv hs' hhead

end Sys2Proof.Machine

/-! PROOFS. What every step keeps, continued: the cells that can be read next are written (10_state.md R36),
and the calls to the sink stay within its protocol (43_output_pump.md R231). -/

namespace Sys2Proof.Machine

/-! ### Written cells (10_state.md R36) -/

theorem State.CellsWritten.takeTurn {s : State} (hw : s.CellsWritten) : s.takeTurn.CellsWritten := by
  unfold State.takeTurn
  split <;> exact { hw with }

theorem State.CellsWritten.respond {s : State} (hw : s.CellsWritten) (st : Status) (count : BitVec 32)
    (data : BitVec 64) (xs : List Sample) : (s.respond st count data xs).CellsWritten :=
  { hw with }

/-- A flight outside a pop has no claim to read. -/
theorem State.CellsWritten.setFlight {s : State} (hw : s.CellsWritten) {f : Flight}
    (hf : f.inPop = false) : { s with flight := f }.CellsWritten :=
  { hw with claimed := fun h => absurd (hf.symm.trans h) Bool.false_ne_true }

theorem Memory.isSome_find_write {m : Memory} {b : Nat} (a : Nat) (x : Sample) (h : (m.find b).isSome) :
    ((m.write a x).find b).isSome := by
  rw [Memory.find_write]
  split
  · rfl
  · exact h

/-- A push writes the one cell that joins the live region (41_ring_buffer.md R160). -/
theorem State.CellsWritten.pushSample {s : State} (hs : s.Inv) (hw : s.CellsWritten) (x : Sample) :
    (s.pushSample x).CellsWritten where
  live i hi := by
    have hpos := (Config.capacity_of_legal hs.legal).1
    rw [State.pushSample_occupancy x hs.legal hs.rptr_lt hs.occupancy_le] at hi
    rw [State.pushSample_rptr_toNat x hs.legal hs.rptr_lt, State.pushSample_cfg, State.pushSample_store,
      Nat.mod_add_mod, Nat.add_assoc]
    rcases Nat.lt_or_ge (s.dropsOnPush + i) s.occupancy with hold | hnew
    · exact Memory.isSome_find_write _ _ (hw.live _ hold)
    · have hlast : s.dropsOnPush + i = s.occupancy := by omega
      rw [hlast, State.rptr_add_occupancy hpos, Nat.mod_eq_of_lt hs.wptr_lt, Memory.find_write_same]
      rfl
  claimed h i h1 h2 := Memory.isSome_find_write _ _ (hw.claimed h i h1 h2)
  pending := hw.pending

/-- A claim is of live cells (R165). -/
theorem State.CellsWritten.popClaim {s : State} (hs : s.Inv) (hw : s.CellsWritten) (n : Nat) (f : Flight) :
    { s.popClaim n with flight := f }.CellsWritten :=
  { hw with
    claimed := fun _ i _ hi => by
      have hk : i < (s.popClaim n).ctK.toNat := hi
      rw [State.popClaim_ctK_toNat hs.legal hs.occupancy_le] at hk
      exact hw.live i (by omega) }

theorem State.CellsWritten.popCopy {s : State} (hw : s.CellsWritten) : s.popCopy.CellsWritten :=
  { hw with
    claimed := fun h i hi hk => by
      rw [State.popCopy_ctOut, List.length_append] at hi
      exact hw.claimed h i ((Nat.le_add_right _ _).trans hi) hk }

/-- The commit leaves a part of the live region (R166). -/
theorem State.CellsWritten.popCommit {s : State} (hs : s.Inv) (hw : s.CellsWritten)
    (hk : s.ctK.toNat ≤ s.occupancy) {f : Flight} (hf : f.inPop = false) :
    { s.popCommit with flight := f }.CellsWritten :=
  { hw with
    live := fun i hi => by
      have hi' : i < s.popCommit.occupancy := hi
      rw [State.popCommit_occupancy hs.legal hs.rptr_lt hk] at hi'
      show (s.store.find ((s.popCommit.rptr.toNat + i) % s.cfg.capacity)).isSome
      rw [State.popCommit_rptr_of_rptr hs.legal hs.rptr_lt, Nat.mod_add_mod, Nat.add_assoc]
      exact hw.live _ (by omega)
    claimed := fun h => absurd (hf.symm.trans h) Bool.false_ne_true }

theorem State.CellsWritten.popAbandon {s : State} (hw : s.CellsWritten) :
    { s.popAbandon with flight := .idle }.CellsWritten :=
  { hw with claimed := fun h => nomatch h }

/-- The update after an `Enqueue` writes every pending cell (43_output_pump.md R224). -/
theorem State.CellsWritten.setPending {s : State} (hw : s.CellsWritten) (tail : List Sample) {f : Flight}
    (hf : f.inPop = false) : { s.setPending tail with flight := f }.CellsWritten :=
  { hw with
    claimed := fun h => absurd (hf.symm.trans h) Bool.false_ne_true
    pending := fun i hi => by
      have hlen : i < tail.length := by
        have hi' : i < (BitVec.ofNat 32 tail.length).toNat := hi
        rw [BitVec.toNat_ofNat] at hi'
        exact hi'.trans_le (Nat.mod_le _ _)
      have hfind := Memory.find_writeList_inside (m := s.pend) (a := 0) hlen
      rw [Nat.zero_add] at hfind
      show ((s.pend.writeList 0 tail).find i).isSome
      rw [hfind]
      rfl }

/-- After INITIALIZE nothing can be read. -/
theorem State.CellsWritten.setDefaults {s : State} (hidle : s.flight = .idle) :
    s.setDefaults.CellsWritten where
  live i hi := by
    rw [State.setDefaults_occupancy] at hi
    exact absurd hi (Nat.not_lt_zero i)
  claimed h := by
    rw [State.setDefaults_flight, hidle] at h
    cases h
  pending i hi := absurd hi (Nat.not_lt_zero i)

theorem State.CellsWritten.rateAdjust {s : State} (hw : s.CellsWritten) (v : Nat) :
    (s.rateAdjust v).CellsWritten := by
  rw [State.rateAdjust_eq]
  exact { hw with }

theorem Ends.cellsWritten {s u : State} {i : Instr} (h : Ends s i u) (hs : s.Inv) (hw : s.CellsWritten) :
    u.CellsWritten := by
  cases h with
  | unchanged => exact hw
  | count => exact { hw with }
  | emit b =>
    exact State.CellsWritten.pushSample (hs.residual b) { hw with } _
  | push x => exact hw.pushSample hs x
  | popCommit n hflight => exact hw.popCommit hs (hs.claim_of_pop hflight).1 rfl
  | popAbandon => exact hw.popAbandon
  | pumpInert => exact hw.setFlight rfl
  | pumpAbandon => exact hw.popAbandon
  | pumpAdjust l q => exact (hw.rateAdjust _).setFlight rfl
  | openOk hlife => exact State.CellsWritten.setDefaults (hs.idle_of_uninit hlife)
  | _ => exact { hw with }

theorem GoesOn.cellsWritten {s u : State} {i : Instr} (h : GoesOn s i u) (hs : s.Inv)
    (hw : s.CellsWritten) : u.CellsWritten := by
  cases h with
  | popClaim n => exact hw.popClaim hs _ _
  | popCopy => exact hw.popCopy
  | pumpStart =>
    exact
      { hw with
        claimed := fun h => absurd (inPop_pump.mp h) (pumpStep2_ne_popping _ _ _ _)
        pending := fun i hi => by
          have hi' : i < (if s.gate then s.pendLen else 0).toNat := hi
          split at hi'
          · exact hw.pending i hi'
          · exact absurd hi' (Nat.not_lt_zero i) }
  | pumpClaim l => exact hw.popClaim hs _ _
  | pumpCopy => exact hw.popCopy
  | pumpCommit l hflight hpoint =>
    refine hw.popCommit hs (hs.claim_of_popping hflight hpoint).1 (inPop_pump_of_ne ?_)
    simp only
    split <;> simp
  | pumpOffer l xs =>
    have hsink : (s.sinkEnqueue xs).CellsWritten := { hw with }
    exact hsink.setPending _ (inPop_pump_of_ne (by simp))
  | pumpDepth l =>
    have hsink : s.sinkQueuedDepth.CellsWritten := { hw with }
    refine hsink.setFlight (inPop_pump_of_ne ?_)
    simp only
    split <;> simp
  | pumpFlush l q =>
    have hsink : (s.callSink .flush).CellsWritten := { hw with }
    exact hsink.setFlight (inPop_pump_of_ne (by simp))

/-- Settles O17: a push writes the cell that joins the live region, an `Enqueue` the cells that become
pending, and every other action only gives up cells. -/
theorem stepKeepsReadableCellsWritten : Obligations.StepKeepsReadableCellsWritten := by
  intro s t hs hw h
  exact step_keeps h hw.takeTurn (fun hu st count data xs => hu.respond st count data xs)
    (fun _ _ _ he => he.cellsWritten hs.takeTurn hw.takeTurn)
    fun _ _ _ hg => hg.cellsWritten hs.takeTurn hw.takeTurn

/-! ### The sink's protocol (43_output_pump.md R230, R231, R335) -/

/-- One more call moves the connection on. -/
theorem State.sinkLink_of_append {s u : State} {k : SinkCall} (h : u.sinkCalls = s.sinkCalls ++ [k]) :
    u.sinkLink = s.sinkLink.after k := by
  rw [State.sinkLink, h, List.foldl_append]
  rfl

/-- The protocol depends on `LIFE` and the calls alone. -/
theorem State.SinkProtocol.of_eq {s u : State} (hp : s.SinkProtocol) (hlife : u.life = s.life)
    (hcalls : u.sinkCalls = s.sinkCalls) : u.SinkProtocol := by
  unfold State.SinkProtocol State.sinkLink at hp ⊢
  rwa [hlife, hcalls]

/-- The connection is open in STOPPED and PLAYING. -/
theorem State.sinkProtocol_of_active {s : State} (h : s.life.inert = false) :
    s.SinkProtocol ↔ s.sinkLink = .opened := by
  unfold State.SinkProtocol
  rcases Life.inert_eq_false_iff.mp h with h | h <;> rw [h]

/-- A call that the open connection allows, while `LIFE` stays what it is. -/
theorem State.SinkProtocol.call {s u : State} {k : SinkCall} (hp : s.SinkProtocol)
    (hactive : s.life.inert = false) (hlife : u.life = s.life)
    (hcalls : u.sinkCalls = s.sinkCalls ++ [k]) (hk : SinkLink.opened.after k = .opened) :
    u.SinkProtocol := by
  rw [State.sinkProtocol_of_active hactive] at hp
  rw [State.sinkProtocol_of_active (hlife ▸ hactive), State.sinkLink_of_append hcalls, hp, hk]

/-- A command in flight on a block that is not destroyed runs in STOPPED or PLAYING. -/
theorem State.Inv.active_of_flight {s : State} (hs : s.Inv) (hflight : s.flight ≠ .idle)
    (hlife : s.life ≠ .destroyed) : s.life.inert = false :=
  Life.active_of_ne (hs.flight_life hflight) hlife

theorem Ends.sinkProtocol {s u : State} {i : Instr} (h : Ends s i u) (hp : s.SinkProtocol) :
    u.SinkProtocol := by
  cases h with
  | pumpAdjust l q => exact hp.of_eq (State.rateAdjust_life _ _) (State.rateAdjust_sinkCalls _ _)
  | openOk hlife hopen =>
    unfold State.SinkProtocol at hp
    rw [hlife] at hp
    show s.sinkOpen.setDefaults.sinkLink = .opened
    rw [State.sinkLink_of_append (s := s) (k := .openSink s.cfg.sampleRate 1 .binary32 s.nextOpen) rfl,
      hp, hopen]
    rfl
  | openFail hlife hopen =>
    unfold State.SinkProtocol at hp ⊢
    rw [hlife] at hp
    rw [State.sinkOpen_life, hlife]
    show s.sinkOpen.sinkLink = .notOpen
    rw [State.sinkLink_of_append (State.sinkOpen_sinkCalls s), hp, hopen]
    rfl
  | beginPlay hlife => exact (State.sinkProtocol_of_active hlife).mp hp
  | stopPlay hlife => exact (State.sinkProtocol_of_active hlife).mp hp
  | destroyUnopened hlife =>
    unfold State.SinkProtocol at hp
    rw [hlife] at hp
    exact .inl hp
  | destroyOpen hlife =>
    rw [State.sinkProtocol_of_active hlife] at hp
    refine .inr ?_
    rw [State.sinkLink_of_append (s := s) (k := .close) rfl, hp]
    rfl
  | _ => exact hp.of_eq rfl rfl

theorem GoesOn.sinkProtocol {s u : State} {i : Instr} (h : GoesOn s i u) (hs : s.Inv)
    (hp : s.SinkProtocol) : u.SinkProtocol := by
  cases h with
  | pumpOffer l xs hflight hpoint hlife =>
    obtain ⟨-, hone, -⟩ := hs.offer hflight hpoint
    exact hp.call (hs.active_of_flight (by simp [hflight]) hlife) rfl rfl
      (if_pos ⟨hone, State.nextAccept_le _ _⟩)
  | pumpDepth l hflight hpoint hlife =>
    exact hp.call (hs.active_of_flight (by simp [hflight]) hlife) rfl rfl rfl
  | pumpFlush l q hflight hpoint hlife =>
    exact hp.call (hs.active_of_flight (by simp [hflight]) hlife) rfl rfl rfl
  | _ => exact hp.of_eq rfl rfl

/-- Settles O18: every call is one that the connection `LIFE` stands for allows. -/
theorem stepKeepsTheSinkProtocol : Obligations.StepKeepsTheSinkProtocol := by
  intro s t hs hp h
  have hp' : s.takeTurn.SinkProtocol := hp.of_eq (State.takeTurn_life s) (State.takeTurn_sinkCalls s)
  exact step_keeps h hp' (fun hu _ _ _ _ => hu.of_eq rfl rfl)
    (fun _ _ _ he => he.sinkProtocol hp') fun _ _ _ hg => hg.sinkProtocol hs.takeTurn hp'

end Sys2Proof.Machine

/-! PROOFS. The step as a whole: responses and queues, the bound on the actions of port C, what each
command and each port may change, and the lifecycle. -/

namespace Sys2Proof.Machine

/-! ### The step, power-on (00_scope.md R13, 60_exceptions.md R313, 70_reset_and_hazards.md R330) -/

/-- Settles O9: the legal configuration lets the step act, and the queue's oldest word is the one decoded. -/
theorem stepRunsTheScheduledCommand : Obligations.StepRunsTheScheduledCommand := by
  intro s q later w ws i hl hsched hin hdec
  have hin' : s.takeTurn.inbox q = w :: ws := by rwa [State.takeTurn_inbox]
  rw [State.takeTurn_of_schedule hsched] at hin'
  unfold step State.stepAction State.act
  simp only [if_pos hl, State.takeTurn_of_schedule hsched, hin', hdec]

/-- Settles O10. -/
theorem onlyIllegalConfigurationsStop : Obligations.OnlyIllegalConfigurationsStop := by
  refine fun s => ⟨step_next_of_legal, fun hl => ?_⟩
  unfold step State.stepAction
  rw [if_neg hl]

/-- Settles O14: `CPS` fits its register under a legal record; the other values are the record's own. -/
theorem powerOnState : Obligations.PowerOnState := by
  intro c
  refine ⟨rfl, rfl, rfl, rfl, cpsNominal_toNat, rfl, rfl, rfl, rfl, rfl, rfl, rfl, rfl, ?_⟩
  show 0#60 ++ BitVec.ofBool false ++ BitVec.ofBool c.enabledDefault ++ 0#2 = _
  cases c.enabledDefault <;> rfl

theorem State.powerOn_occupancy (c : Config) : (State.powerOn c).occupancy = 0 := modSub_self 0 _

theorem State.inv_powerOn {c : Config} (hl : c.Legal) : (State.powerOn c).Inv where
  legal := hl
  cps_range := cpsNominal_range hl
  wptr_lt := (Config.capacity_of_legal hl).1
  rptr_lt := (Config.capacity_of_legal hl).1
  occupancy_le := by
    rw [State.powerOn_occupancy]
    exact Nat.zero_le _
  pendLen_le := Nat.zero_le _
  highacc_le := le_refl _
  elapsed_lt := by
    have hbounds := Config.bounds_of_legal hl
    show 0 < c.cpsMax + c.unit
    omega
  store_ok := ⟨List.Pairwise.nil, fun _ h => absurd h List.not_mem_nil⟩
  pend_ok := ⟨List.Pairwise.nil, fun _ h => absurd h List.not_mem_nil⟩
  flight_matches := trivial
  flight_life h := absurd rfl h
  ct_active := rfl
  ct_ok h := nomatch h
  pump_ok _ h := nomatch h

theorem State.cellsWritten_powerOn (c : Config) : (State.powerOn c).CellsWritten where
  live i hi := by
    rw [State.powerOn_occupancy] at hi
    exact absurd hi (Nat.not_lt_zero i)
  claimed h := nomatch h
  pending i hi := absurd hi (Nat.not_lt_zero i)

/-- Settles O15: nothing is in flight, readable or called at power-on, and `State.reset` is power-on with a
legal record. -/
theorem powerOnStateIsGood : Obligations.PowerOnStateIsGood := by
  have hgood (c : Config) (hl : c.Legal) :
      (State.powerOn c).Inv ∧ (State.powerOn c).CellsWritten ∧ (State.powerOn c).SinkProtocol :=
    ⟨State.inv_powerOn hl, State.cellsWritten_powerOn c, rfl⟩
  exact ⟨hgood, hgood _ (by decide)⟩

/-! ### Responses (30_encoding.md R107, R108) -/

/-- Ending a command answers it on the port that issued it. -/
theorem Ends.answered {s u : State} {i : Instr} (h : Ends s i u) (st : Status) (count : BitVec 32)
    (data : BitVec 64) (xs : List Sample) :
    s.Answered (u.respond st count data xs) s.port ⟨st, count, data, xs⟩ :=
  have ⟨hport, hin, hout⟩ := h.queues
  State.respond_answered_of_queues st count data xs hport hin hout

/-- Settles O11: the turn moves no queue, an answer moves the queues of its port alone, and an action that
goes on moves none. -/
theorem everyCommandEndsWithOneResponse : Obligations.EveryCommandEndsWithOneResponse := by
  intro s t hs h
  cases step_does hs h with
  | noCommand hin ht =>
    subst ht
    exact ⟨fun q _ => by simp, fun _ => by simp [hin], fun hne => absurd hin hne⟩
  | illegal hin hidle ht =>
    have hans := State.answered_of_takeTurn (s.takeTurn.respond_answered .illegal 0 0 [])
    subst ht
    exact ⟨hans.2.2, fun hempty => absurd hempty hin,
      fun _ => ⟨fun _ => ⟨_, hans⟩, fun ⟨hc, hflight⟩ => absurd (hidle hc) hflight⟩⟩
  | ends i u st count data xs hin hport hhead hends hidle ht =>
    have hans := State.answered_of_takeTurn (hends.answered st count data xs)
    subst ht
    exact ⟨hans.2.2, fun hempty => absurd hempty hin,
      fun _ => ⟨fun _ => ⟨_, hans⟩, fun ⟨hc, hflight⟩ => absurd (hidle hc) hflight⟩⟩
  | goesOn i hin hport hhead hgoes =>
    obtain ⟨hinbox, houtbox⟩ := hgoes.queues
    have hsame (q : Port) : t.inbox q = s.inbox q ∧ t.outbox q = s.outbox q := by
      rw [hinbox, houtbox, State.takeTurn_inbox, State.takeTurn_outbox]
      exact ⟨rfl, rfl⟩
    refine ⟨fun q _ => hsame q, fun hempty => absurd hempty hin,
      fun _ => ⟨fun hdone => ?_, fun _ => hsame .consumer⟩⟩
    exact absurd hdone (not_or.mpr ⟨not_not.mpr hport, hgoes.flight_ne_idle⟩)

/-! ### What each port's commands leave alone (20_memory.md, 60_exceptions.md R307) -/

/-- What the commands of ports P and H leave of the flight and its transaction. -/
theorem Ends.flight_eq {s u : State} {i : Instr} {q : Port} (h : Ends s i u) (hq : q ∈ i.ports)
    (hne : q ≠ .consumer) :
    u.flight = s.flight ∧ u.ctActive = s.ctActive ∧ u.ctR0 = s.ctR0 ∧ u.ctK = s.ctK ∧ u.ctOut = s.ctOut := by
  cases h with
  | popCommit | popAbandon | pumpInert | pumpAbandon | pumpAdjust =>
    simp only [Instr.ports, List.mem_singleton] at hq
    exact absurd hq hne
  | _ => exact ⟨rfl, rfl, rfl, rfl, rfl⟩

theorem Ends.cfg_eq {s u : State} {i : Instr} (h : Ends s i u) : u.cfg = s.cfg := by
  cases h with
  | pumpAdjust l q => exact State.rateAdjust_cfg _ _
  | _ => rfl

theorem GoesOn.cfg_eq {s u : State} {i : Instr} (h : GoesOn s i u) : u.cfg = s.cfg := by
  cases h <;> rfl

/-- The commands of port P write the clock and the ring alone. -/
theorem Ends.producer_frame {s u : State} {i : Instr} (h : Ends s i u) (hq : .producer ∈ i.ports) :
    u.life = s.life ∧ u.enabled = s.enabled ∧ u.cps = s.cps ∧ u.pendLen = s.pendLen ∧
      u.pend = s.pend ∧ u.sinkCalls = s.sinkCalls := by
  cases h with
  | unchanged | count | emit | push => exact ⟨rfl, rfl, rfl, rfl, rfl, rfl⟩
  | _ => simp [Instr.ports] at hq

/-- What port C leaves alone: the clock, the samples and the cursor of the producer, `LIFE` and `ENABLED`. -/
def ConsumerFrame (s u : State) : Prop :=
  u.store = s.store ∧ u.wptr = s.wptr ∧ u.drops = s.drops ∧ u.high = s.high ∧
    u.elapsed = s.elapsed ∧ u.highacc = s.highacc ∧ u.life = s.life ∧ u.enabled = s.enabled

theorem Ends.consumer_frame {s u : State} {i : Instr} (h : Ends s i u) (hq : .consumer ∈ i.ports) :
    ConsumerFrame s u := by
  cases h with
  | unchanged | popCommit | popAbandon | pumpInert | pumpAbandon =>
    exact ⟨rfl, rfl, rfl, rfl, rfl, rfl, rfl, rfl⟩
  | pumpAdjust => simp [ConsumerFrame]
  | _ => simp [Instr.ports] at hq

theorem GoesOn.consumer_frame {s u : State} {i : Instr} (h : GoesOn s i u) : ConsumerFrame s u := by
  cases h <;> exact ⟨rfl, rfl, rfl, rfl, rfl, rfl, rfl, rfl⟩

/-- The commands of port H write no sample, and no cursor or count outside INITIALIZE. -/
theorem Ends.host_frame {s u : State} {i : Instr} (h : Ends s i u) (hq : .host ∈ i.ports) :
    u.store = s.store ∧ u.pend = s.pend ∧
      (s.life ≠ .uninit → u.wptr = s.wptr ∧ u.rptr = s.rptr ∧ u.elapsed = s.elapsed ∧
        u.highacc = s.highacc ∧ u.high = s.high ∧ u.drops = s.drops ∧ u.pendLen = s.pendLen) := by
  cases h with
  | openOk hlife => exact ⟨rfl, rfl, fun hne => absurd hlife hne⟩
  | unchanged | openFail | beginPlay | stopPlay | enable | disable | importRecord | destroyUnopened
  | destroyOpen => exact ⟨rfl, rfl, fun _ => ⟨rfl, rfl, rfl, rfl, rfl, rfl, rfl⟩⟩
  | _ => simp [Instr.ports] at hq

/-- Settles O20: port by port, the actions of its commands have these frames, and the turn and the response
write the queues alone. -/
theorem portsTouchOnlyWhatTheyMay : Obligations.PortsTouchOnlyWhatTheyMay := by
  intro s t h
  refine ⟨fun hport => ?_, fun hport => ?_, fun hport => ?_⟩
  · apply step_keeps h
    case hturn => simp
    case hrespond => exact fun hu _ _ _ _ => hu
    case hends =>
      intro i u hi he
      rw [hport] at hi
      obtain ⟨hlife, henabled, hcps, hpendLen, hpend, hcalls⟩ := he.producer_frame hi
      obtain ⟨hflight, hactive, hr0, hk, hout⟩ := he.flight_eq hi (by simp)
      simp [hlife, henabled, hcps, hpendLen, hpend, hcalls, hflight, hactive, hr0, hk, hout]
    case hgoes => exact fun i u hi hg => absurd (hport.symm.trans (hg.consumer hi)) (by simp)
  · apply step_keeps h
    case hturn => simp
    case hrespond => exact fun hu _ _ _ _ => hu
    case hends => exact fun i u hi he => by simpa [ConsumerFrame] using he.consumer_frame (hport ▸ hi)
    case hgoes => exact fun i u _ hg => by simpa [ConsumerFrame] using hg.consumer_frame
  · apply step_keeps h
    case hturn => simp
    case hrespond => exact fun hu _ _ _ _ => hu
    case hends =>
      intro i u hi he
      rw [hport] at hi
      obtain ⟨hstore, hpend, hrest⟩ := he.host_frame hi
      obtain ⟨hflight, hactive, hr0, hk, hout⟩ := he.flight_eq hi (by simp)
      simp only [State.takeTurn_life] at hrest
      refine ⟨by simpa using hstore, by simpa using hpend, by simpa using hactive, by simpa using hr0,
        by simpa using hk, by simpa using hout, by simpa using hflight, fun hlife => ?_⟩
      simpa using hrest hlife
    case hgoes => exact fun i u hi hg => absurd (hport.symm.trans (hg.consumer hi)) (by simp)

/-- Settles O19: an action that changes a register is one of its writers. -/
theorem registersChangeOnlyByTheirWriters : Obligations.RegistersChangeOnlyByTheirWriters := by
  intro i s t h
  obtain ⟨u, st, count, data, xs, hends, rfl⟩ | hgoes := exec_cases h
  · refine ⟨hends.cfg_eq, ?_⟩
    cases hends <;> simp [Instr.mnemonic, State.emitCycle]
  · refine ⟨hgoes.cfg_eq, ?_⟩
    cases hgoes <;> simp [Instr.mnemonic]

/-! ### The bound on the actions of port C (70_reset_and_hazards.md R352) -/

theorem State.actionsLeft_of_eq {s u : State} (hcfg : u.cfg = s.cfg) (hflight : u.flight = s.flight)
    (hk : u.ctK = s.ctK) (hout : u.ctOut = s.ctOut) : u.actionsLeft = s.actionsLeft := by
  unfold State.actionsLeft
  rw [hcfg, hflight, hk, hout]

@[simp] theorem State.takeTurn_actionsLeft (s : State) : s.takeTurn.actionsLeft = s.actionsLeft :=
  State.actionsLeft_of_eq (by simp) (by simp) (by simp) (by simp)

theorem State.actionsLeft_eq_zero_iff (s : State) : s.actionsLeft = 0 ↔ s.flight = .idle := by
  unfold State.actionsLeft
  cases hf : s.flight with
  | idle => simp
  | pop => simp
  | pump l => cases hp : l.point <;> simp [hp]

theorem State.actionsLeft_of_pop {s : State} (h : s.flight = .pop) :
    s.actionsLeft = s.ctK.toNat - s.ctOut.length + 1 := by
  rw [State.actionsLeft, h]

theorem State.actionsLeft_of_popping {s : State} {l : PumpFlight} (h : s.flight = .pump l)
    (hp : l.point = .popping) : s.actionsLeft = s.ctK.toNat - s.ctOut.length + 5 := by
  simp only [State.actionsLeft, h, hp]

theorem State.popClaim_ctK_le {s : State} (hs : s.Inv) (n : Nat) : (s.popClaim n).ctK.toNat ≤ n := by
  rw [State.popClaim_ctK_toNat hs.legal hs.occupancy_le]
  exact min_le_left _ _

/-- Each further action of a command in flight lowers the bound, a copy of a POP_BLOCK by exactly one. -/
theorem GoesOn.actionsLeft_lt {s u : State} {i : Instr} (h : GoesOn s i u) (hs : s.Inv)
    (hhead : s.Head i) (hflight : s.flight ≠ .idle) :
    u.actionsLeft + 1 ≤ s.actionsLeft ∧ (s.flight = .pop → u.actionsLeft + 1 = s.actionsLeft) := by
  cases h with
  | popClaim n hne => exact absurd (hs.idle_of_head hhead (fun _ _ => hne) (by simp)) hflight
  | popCopy n hf hlen =>
    have heq : s.popCopy.actionsLeft + 1 = s.actionsLeft := by
      rw [State.actionsLeft_of_pop hf, State.actionsLeft_of_pop (s := s.popCopy) hf, State.popCopy_ctK,
        State.popCopy_ctOut, List.length_append, List.length_singleton]
      omega
    exact ⟨heq.le, fun _ => heq⟩
  | pumpStart hne => exact absurd (hs.idle_of_head hhead (by simp) fun l _ => hne l) hflight
  | pumpClaim l hf hpoint =>
    refine ⟨?_, by simp [hf]⟩
    have hk := State.popClaim_ctK_le hs s.cfg.block
    rw [State.actionsLeft_of_popping rfl rfl]
    simp only [State.actionsLeft, hf, hpoint, State.popClaim_ctOut, List.length_nil]
    omega
  | pumpCopy l hf hpoint hlen =>
    refine ⟨?_, by simp [hf]⟩
    rw [State.actionsLeft_of_popping hf hpoint, State.actionsLeft_of_popping (s := s.popCopy) hf hpoint,
      State.popCopy_ctK, State.popCopy_ctOut, List.length_append, List.length_singleton]
    omega
  | pumpCommit l hf hpoint =>
    refine ⟨?_, by simp [hf]⟩
    rw [State.actionsLeft_of_popping hf hpoint]
    unfold State.actionsLeft
    cases l.fwd <;> simp
  | pumpOffer l xs hf hpoint =>
    refine ⟨?_, by simp [hf]⟩
    rcases hpoint with hpoint | ⟨hpoint, -⟩ <;> simp [State.actionsLeft, hf, hpoint]
  | pumpDepth l hf hpoint =>
    refine ⟨?_, by simp [hf]⟩
    by_cases hdeep : s.cfg.sinkFlushDepth.toNat < s.nextDepth.toNat <;>
      simp [State.actionsLeft, hf, hpoint, hdeep]
  | pumpFlush l q hf hpoint =>
    refine ⟨?_, by simp [hf]⟩
    simp [State.actionsLeft, hf, hpoint]

/-- The first action of a command on port C sets the bound. -/
theorem GoesOn.actionsLeft_start {s u : State} {i : Instr} (h : GoesOn s i u) (hidle : s.flight = .idle) :
    (u.flight = .pop → u.actionsLeft = u.ctK.toNat + 1) ∧
      (u.flight ≠ .pop → u.actionsLeft ≤ s.cfg.block + 6) := by
  cases h with
  | popClaim n => exact ⟨fun _ => State.actionsLeft_of_pop rfl, fun hne => absurd rfl hne⟩
  | pumpStart =>
    refine ⟨fun h => (by cases h), fun _ => ?_⟩
    unfold State.actionsLeft pumpStep2
    by_cases hoffer : s.gate = true ∧ 0 < s.pendLen.toNat
    · simp [hoffer]
    · by_cases hpop : s.cfg.pushThreshold < s.occupancy <;> simp [hoffer, hpop]
  | popCopy n hf | pumpClaim l hf | pumpCopy l hf | pumpCommit l hf | pumpOffer l xs hf
  | pumpDepth l hf | pumpFlush l q hf => simp [hidle] at hf

/-- A turn of port P or H leaves the flight and the bound as they are. -/
theorem step_flight_of_ne_consumer {s t : State} (h : step s = .next t)
    (hport : s.takeTurn.port ≠ .consumer) : t.flight = s.flight ∧ t.actionsLeft = s.actionsLeft := by
  apply step_keeps h
  case hturn => simp
  case hrespond => exact fun hu _ _ _ _ => hu
  case hends =>
    intro i u hi he
    obtain ⟨hflight, -, -, hk, hout⟩ := he.flight_eq hi hport
    rw [State.actionsLeft_of_eq he.cfg_eq hflight hk hout, hflight]
    simp
  case hgoes => exact fun i u hi hg => absurd (hg.consumer hi) hport

/-- With no word on port C nothing is in flight. -/
theorem State.Inv.idle_of_empty {s : State} (hs : s.Inv) (hin : s.inbox .consumer = []) :
    s.flight = .idle := by
  refine hs.idle_of_no_head ?_
  rintro i ⟨w, hw, -⟩
  rw [show s.inC = [] from hin] at hw
  cases hw

/-- A turn of port C leaves nothing in flight, or takes the command in flight further. -/
theorem step_flight_of_consumer {s t : State} (hs : s.Inv) (h : step s = .next t)
    (hport : s.takeTurn.port = .consumer) :
    t.flight = .idle ∨ ∃ i, s.takeTurn.Head i ∧ GoesOn s.takeTurn i t := by
  cases step_does hs h with
  | noCommand hin ht =>
    rw [hport] at hin
    subst ht
    exact .inl ((State.takeTurn_flight s).trans (hs.idle_of_empty hin))
  | illegal hin hidle ht => exact .inl (ht ▸ hidle hport)
  | ends i u st count data xs hin _ hhead hends hidle ht => exact .inl (ht ▸ hidle hport)
  | goesOn i hin _ hhead hgoes => exact .inr ⟨i, hhead, hgoes⟩

/-- Settles O13: a turn of another port leaves the flight and its transaction alone, an answer on port C
ends the flight, and an action that goes on lowers or sets the bound. -/
theorem portCCommandsEnd : Obligations.PortCCommandsEnd := by
  intro s t hs h
  have hpos (hne : s.flight ≠ .idle) : 1 ≤ s.actionsLeft :=
    Nat.one_le_iff_ne_zero.mpr fun h => hne (s.actionsLeft_eq_zero_iff.mp h)
  by_cases hport : s.takeTurn.port = .consumer
  · obtain hidle | ⟨i, hhead, hgoes⟩ := step_flight_of_consumer hs h hport
    · have hzero : t.actionsLeft = 0 := t.actionsLeft_eq_zero_iff.mpr hidle
      have hno (hpop : t.flight = .pop) : False := by simp [hidle] at hpop
      exact ⟨fun hne => absurd hport hne, fun _ hne => hzero ▸ hpos hne, fun _ hpop => (hno hpop).elim,
        fun _ hpop => (hno hpop).elim, fun _ _ => by omega, t.actionsLeft_eq_zero_iff⟩
    · have hlater (hne : s.flight ≠ .idle) := hgoes.actionsLeft_lt hs.takeTurn hhead (by simpa using hne)
      have hfirst (hidle : s.flight = .idle) := hgoes.actionsLeft_start (by simpa using hidle)
      simp only [State.takeTurn_actionsLeft, State.takeTurn_flight, State.takeTurn_cfg] at hlater hfirst
      exact ⟨fun hne => absurd hport hne, fun _ hne => (hlater hne).1,
        fun hpop _ _ => (hlater (by simp [hpop])).2 hpop, fun hidle => (hfirst hidle).1,
        fun hidle => (hfirst hidle).2, t.actionsLeft_eq_zero_iff⟩
  · obtain ⟨hflight, hleft⟩ := step_flight_of_ne_consumer h hport
    refine ⟨fun _ => hleft, fun hc => absurd hc hport, fun _ _ hc => absurd hc hport,
      fun hidle hpop => ?_, fun hidle _ => ?_, t.actionsLeft_eq_zero_iff⟩
    · simp [hflight, hidle] at hpop
    · rw [t.actionsLeft_eq_zero_iff.mpr (hflight.trans hidle)]
      exact Nat.zero_le _

/-! ### The lifecycle (44_playback_control.md R250) -/

/-- Only INITIALIZE, BEGIN_PLAY, STOP_PLAY and DESTROY write `LIFE`. -/
theorem life_eq_of_exec {i : Instr} {s t : State} (h : exec i s = .next t)
    (hi : i.mnemonic ∉ ["INITIALIZE", "BEGIN_PLAY", "STOP_PLAY", "DESTROY"]) : t.life = s.life := by
  by_contra hne
  obtain ⟨-, -, -, -, -, -, -, -, -, hlife, -⟩ := registersChangeOnlyByTheirWriters i s t h
  exact hi (hlife hne)

/-- Settles O21: the four commands that write `LIFE`, state by state. -/
theorem lifecycleTransitions : Obligations.LifecycleTransitions := by
  intro i s
  obtain ⟨t, ht⟩ := exec_next i s
  refine ⟨t, ht, ?_⟩
  cases i with
  | initializeBlock =>
    obtain rfl := Host.Outcome.next.inj ht
    by_cases hopen : s.nextOpen = true <;> cases hlife : s.life <;> simp [hopen, hlife]
  | beginPlay =>
    obtain rfl := Host.Outcome.next.inj ht
    cases hlife : s.life <;> simp [hlife, Life.inert]
  | stopPlay =>
    obtain rfl := Host.Outcome.next.inj ht
    cases hlife : s.life <;> simp [hlife, Life.inert]
  | destroy =>
    obtain rfl := Host.Outcome.next.inj ht
    cases hlife : s.life <;> simp [hlife]
  | _ => exact life_eq_of_exec ht (by simp [Instr.mnemonic])

/-- In DESTROYED an action writes neither a register nor a sample, and calls no sink. -/
def DestroyedFrame (s u : State) : Prop :=
  u.life = .destroyed ∧ u.cps = s.cps ∧ u.elapsed = s.elapsed ∧ u.highacc = s.highacc ∧
    u.wptr = s.wptr ∧ u.rptr = s.rptr ∧ u.drops = s.drops ∧ u.pendLen = s.pendLen ∧ u.high = s.high ∧
    u.enabled = s.enabled ∧ u.store = s.store ∧ u.pend = s.pend ∧ u.sinkCalls = s.sinkCalls

theorem Ends.destroyed_frame {s u : State} {i : Instr} (h : Ends s i u) (hlife : s.life = .destroyed) :
    DestroyedFrame s u := by
  cases h with
  | unchanged | popAbandon | pumpInert | pumpAbandon =>
    exact ⟨hlife, rfl, rfl, rfl, rfl, rfl, rfl, rfl, rfl, rfl, rfl, rfl, rfl⟩
  | count _ hactive | emit _ hactive | push _ hactive | beginPlay hactive | stopPlay hactive
  | destroyOpen hactive => exact absurd hlife (Life.ne_destroyed_of_active hactive)
  | popCommit _ _ _ hne | pumpAdjust _ _ _ _ hne | enable hne | disable hne | importRecord _ _ _ _ hne =>
    exact absurd hlife hne
  | openOk hu | openFail hu | destroyUnopened hu =>
    rw [hlife] at hu
    cases hu

theorem GoesOn.destroyed_frame {s u : State} {i : Instr} (h : GoesOn s i u) (hlife : s.life = .destroyed) :
    DestroyedFrame s u := by
  cases h with
  | popCopy | pumpCopy => exact ⟨hlife, rfl, rfl, rfl, rfl, rfl, rfl, rfl, rfl, rfl, rfl, rfl, rfl⟩
  | popClaim _ _ hactive | pumpStart _ hactive | pumpClaim _ _ _ hactive =>
    exact absurd hlife (Life.ne_destroyed_of_active hactive)
  | pumpCommit _ _ _ _ hne | pumpOffer _ _ _ _ hne | pumpDepth _ _ _ hne | pumpFlush _ _ _ _ hne =>
    exact absurd hlife hne

/-- The commands that answer INERT in UNINIT as in DESTROYED (70_reset_and_hazards.md R332). -/
theorem exec_eq_inert_of_dataPath {i : Instr} {s : State} (hlife : s.life.inert = true)
    (hidle : s.flight = .idle)
    (hi : i.mnemonic ∈ ["CYCLE", "PUSH", "POP_BLOCK", "OCCUPANCY", "PUMP", "BEGIN_PLAY", "STOP_PLAY"]) :
    exec i s = .next (s.respond .inert 0 0 []) := by
  cases i with
  | cycle b => exact congrArg Host.Outcome.next (if_pos hlife)
  | push x => exact congrArg Host.Outcome.next (if_pos hlife)
  | occupancy => exact congrArg Host.Outcome.next (if_pos hlife)
  | beginPlay => exact congrArg Host.Outcome.next (if_pos hlife)
  | stopPlay => exact congrArg Host.Outcome.next (if_pos hlife)
  | popBlock n =>
    show execPopBlock n s = _
    simp [execPopBlock, hidle, hlife]
  | pump =>
    show execPump s = _
    simp [execPump, State.pumpStart, hidle, hlife]
  | _ => simp [Instr.mnemonic] at hi

/-- Settles O22: in DESTROYED the lifecycle checks leave the flying pop's copies and the ends of R229. -/
theorem destroyedIsTerminal : Obligations.DestroyedIsTerminal := by
  refine ⟨fun i s hlife hidle hplaying hreadReg => ?_, fun s t hlife h => ?_⟩
  · have hinert : s.life.inert = true := by rw [hlife]; rfl
    cases i with
    | isPlaying => exact absurd rfl hplaying
    | readReg r => exact absurd rfl (hreadReg r)
    | initializeBlock => exact congrArg Host.Outcome.next (if_neg (by simp [hlife]))
    | enable => exact congrArg Host.Outcome.next (if_pos hlife)
    | disable => exact congrArg Host.Outcome.next (if_pos hlife)
    | exportRecord => exact congrArg Host.Outcome.next (if_pos hlife)
    | importRecord ev en cv cps => exact congrArg Host.Outcome.next (if_pos hlife)
    | destroy =>
      show execDestroy s = _
      simp [execDestroy, hlife]
    | _ => exact exec_eq_inert_of_dataPath hinert hidle (by simp [Instr.mnemonic])
  · have hlife' : s.takeTurn.life = .destroyed := by rwa [State.takeTurn_life]
    apply step_keeps h
    case hturn => simp [hlife]
    case hrespond => exact fun hu _ _ _ _ => hu
    case hends => exact fun i u _ he => by simpa [DestroyedFrame] using he.destroyed_frame hlife'
    case hgoes => exact fun i u _ hg => by simpa [DestroyedFrame] using hg.destroyed_frame hlife'

/-- Settles O23: the data path, BEGIN_PLAY and STOP_PLAY test for both inert states. -/
theorem inertUntilInitialized : Obligations.InertUntilInitialized := by
  intro i s hlife hidle hi
  exact ⟨_, exec_eq_inert_of_dataPath (Life.inert_eq_true_iff.mpr hlife) hidle hi, rfl, rfl,
    s.respond_answered _ _ _ _⟩

/-! ### The gate (43_output_pump.md R221, R232) -/

/-- No action that ends a command offers samples to the sink. -/
theorem Ends.no_enqueue {s u : State} {i : Instr} (h : Ends s i u) (xs : List Sample) (a : Nat) :
    u.sinkCalls ≠ s.sinkCalls ++ [.enqueue xs a] := by
  cases h <;> simp [State.emitCycle]

/-- Of the actions that go on, only the two offers of PUMP do, and those with the gate open. -/
theorem GoesOn.fwd_of_enqueue {s u : State} {i : Instr} (h : GoesOn s i u) (hs : s.Inv) {xs : List Sample}
    {a : Nat} (hcalls : u.sinkCalls = s.sinkCalls ++ [.enqueue xs a]) :
    ∃ l, s.flight = .pump l ∧ l.fwd = true := by
  cases h with
  | pumpOffer l ys hflight hpoint => exact ⟨l, hflight, (hs.offer hflight hpoint).1⟩
  | _ => simp at hcalls

/-- An action of a PUMP in flight keeps what its first action found. -/
theorem GoesOn.fwd_eq {s u : State} {i : Instr} (h : GoesOn s i u) {l l' : PumpFlight}
    (hflight : s.flight = .pump l) (hflight' : u.flight = .pump l') : l'.fwd = l.fwd := by
  cases h with
  | popClaim => cases hflight'
  | popCopy n hf => simp [hflight] at hf
  | pumpStart hne => exact absurd hflight (hne l)
  | pumpCopy m hf =>
    obtain rfl : l = l' := Flight.pump.inj (hflight.symm.trans hflight')
    rfl
  | pumpClaim m hf | pumpCommit m hf | pumpOffer m xs hf | pumpDepth m hf | pumpFlush m q hf =>
    obtain rfl : l = m := Flight.pump.inj (hflight.symm.trans hf)
    obtain rfl := Flight.pump.inj hflight'
    rfl

/-- The first action of a PUMP samples the gate. -/
theorem GoesOn.fwd_start {s u : State} {i : Instr} (h : GoesOn s i u) (hidle : s.flight = .idle)
    {l' : PumpFlight} (hflight' : u.flight = .pump l') : l'.fwd = s.gate := by
  cases h with
  | popClaim => cases hflight'
  | pumpStart =>
    obtain rfl := Flight.pump.inj hflight'
    rfl
  | popCopy n hf | pumpClaim l hf | pumpCopy l hf | pumpCommit l hf | pumpOffer l xs hf
  | pumpDepth l hf | pumpFlush l q hf => simp [hidle] at hf

theorem State.gate_eq (s : State) : s.gate = (s.life = .playing && s.enabled) := rfl

/-- Settles O48: an offer needs a PUMP whose `fwd` is set, and `fwd` is set by its first action alone. -/
theorem enqueueOnlyWithTheGateOpen : Obligations.EnqueueOnlyWithTheGateOpen := by
  intro s t hs h
  refine ⟨fun xs a => ?_, fun l l' hflight => ?_, fun l' hidle => ?_⟩
  · apply step_keeps h
    case hturn => simp
    case hrespond => exact fun hu _ _ _ _ => hu
    case hends => exact fun i u _ he hcalls => absurd hcalls (by simpa using he.no_enqueue xs a)
    case hgoes =>
      intro i u _ hg hcalls
      simpa using hg.fwd_of_enqueue hs.takeTurn (xs := xs) (a := a) (by simpa using hcalls)
  all_goals
    by_cases hport : s.takeTurn.port = .consumer
    case neg =>
      rw [(step_flight_of_ne_consumer h hport).1]
      simp_all
  · obtain hdone | ⟨i, -, hg⟩ := step_flight_of_consumer hs h hport
    · simp [hdone]
    · exact hg.fwd_eq (by simpa using hflight)
  · obtain hdone | ⟨i, -, hg⟩ := step_flight_of_consumer hs h hport
    · simp [hdone]
    · simpa [State.gate_eq] using hg.fwd_start (by simpa using hidle)

end Sys2Proof.Machine

/-! PROOFS. 41_ring_buffer.md and 40_sample_clock.md: what a push and a CYCLE do (R130 to R136, R160 to
R163), and the two laws of the sample clock: no drift (R143) and the exact duty cycle (R142). -/

namespace Sys2Proof.Machine

/-! ### A push (41_ring_buffer.md R160, R161) -/

theorem State.pushSample_readStore_other (x : Sample) {s : State} {a : Nat} (h : a ≠ s.wptr.toNat) :
    (s.pushSample x).readStore a = s.readStore a := by
  simp [State.readStore, Memory.find_write_other _ x h]

theorem State.Inv.dropsOnPush_below {s : State} (hs : s.Inv) (h : s.occupancy < s.cfg.dropHwm) :
    s.dropsOnPush = 0 := by
  rw [State.dropsOnPush_eq hs.legal hs.occupancy_le, if_neg h.ne]

theorem State.Inv.dropsOnPush_at {s : State} (hs : s.Inv) (h : s.occupancy = s.cfg.dropHwm) :
    s.dropsOnPush = 1 := by
  rw [State.dropsOnPush_eq hs.legal hs.occupancy_le, if_pos h]

/-- Below `DROP_HWM` a push drops nothing. -/
theorem State.pushSample_below {s : State} (x : Sample) (h : s.dropsOnPush = 0) :
    (s.pushSample x).rptr = s.rptr ∧ (s.pushSample x).drops = s.drops := by
  simp [h]

/-- At `DROP_HWM` a push drops the oldest sample and counts it (R163). -/
theorem State.pushSample_at {s : State} (hs : s.Inv) (x : Sample) (h : s.dropsOnPush = 1) :
    (s.pushSample x).rptr.toNat = (s.rptr.toNat + 1) % s.cfg.capacity ∧
      (s.pushSample x).drops = s.drops + 1 := by
  rw [State.pushSample_rptr_toNat x hs.legal hs.rptr_lt, State.pushSample_drops, h]
  exact ⟨rfl, rfl⟩

theorem exec_push_of_active {s : State} (x : Sample) (hlife : s.life.inert = false) :
    exec (.push x) s = .next ((s.pushSample x).respond .ok 1 (BitVec.ofNat 64 s.dropsOnPush) []) := by
  show execPush x s = _
  rw [execPush, hlife, if_neg Bool.false_ne_true]
  rfl

/-- The answer to a push tells the drops (R162). -/
theorem State.pushSample_answered (x : Sample) (s : State) {d : Nat} (h : s.dropsOnPush = d) :
    s.Answered ((s.pushSample x).respond .ok 1 (BitVec.ofNat 64 s.dropsOnPush) []) s.port
      ⟨.ok, 1, BitVec.ofNat 64 d, []⟩ := by
  rw [h]
  exact State.respond_answered_of_queues _ _ _ _ rfl rfl rfl

/-- Settles O33: the drop count is 1 exactly at `DROP_HWM`, and the store writes one cell. -/
theorem pushStoresAndDropsTheOldest : Obligations.PushStoresAndDropsTheOldest := by
  intro w s hs hlife
  have hocc := State.pushSample_occupancy w hs.legal hs.rptr_lt hs.occupancy_le
  refine ⟨_, exec_push_of_active w (Life.inert_eq_false_iff.mpr hlife),
    State.pushSample_readStore_wptr w s, fun a ha => State.pushSample_readStore_other w ha,
    State.pushSample_wptr_toNat w hs.legal, fun hat => ?_, fun hbelow => ?_, rfl, rfl⟩
  · have hdrop := hs.dropsOnPush_at hat
    obtain ⟨hrptr, hdrops⟩ := State.pushSample_at hs w hdrop
    refine ⟨?_, hrptr, ?_, s.pushSample_answered w hdrop⟩
    · rw [hdrop, hat] at hocc
      exact hocc
    · rw [State.respond_drops, hdrops, BitVec.toNat_add]
      rfl
  · have hdrop := hs.dropsOnPush_below hbelow
    obtain ⟨hrptr, hdrops⟩ := State.pushSample_below w hdrop
    refine ⟨?_, hrptr, hdrops, s.pushSample_answered w hdrop⟩
    rw [hdrop] at hocc
    exact hocc

/-- The unread samples after a push: the new one joins, and the drops leave from the front (R160). -/
theorem State.pushSample_live {s : State} (hs : s.Inv) (x : Sample) :
    (s.pushSample x).live = (s.live ++ [x]).drop s.dropsOnPush := by
  have hpos := (Config.capacity_of_legal hs.legal).1
  have hocc := State.pushSample_occupancy x hs.legal hs.rptr_lt hs.occupancy_le
  have hcell (i : Nat) : ((s.pushSample x).rptr.toNat + i) % s.cfg.capacity =
      (s.rptr.toNat + (s.dropsOnPush + i)) % s.cfg.capacity := by
    rw [State.pushSample_rptr_toNat x hs.legal hs.rptr_lt, Nat.mod_add_mod, Nat.add_assoc]
  refine List.ext_getElem (by simp [hocc]) fun i h1 h2 => ?_
  rw [State.live_length, hocc] at h1
  rw [State.live_getElem, List.getElem_drop, State.pushSample_cfg, hcell]
  rcases Nat.lt_or_ge (s.dropsOnPush + i) s.occupancy with hold | hnew
  · rw [State.pushSample_readStore_other x (State.live_cell_ne_wptr hs.wptr_lt hold),
      List.getElem_append_left (by simpa using hold), State.live_getElem]
  · have hlast : s.dropsOnPush + i = s.occupancy := by omega
    rw [List.getElem_append_right (by simpa using hnew)]
    simp only [hlast, State.rptr_add_occupancy hpos, Nat.mod_eq_of_lt hs.wptr_lt,
      State.pushSample_readStore_wptr, List.getElem_singleton]

/-- Settles O34: what leaves from the front is the excess over `DROP_HWM`. -/
theorem pushRefinesADropOldestQueue : Obligations.PushRefinesADropOldestQueue := by
  intro w s hs hlife
  refine ⟨_, exec_push_of_active w (Life.inert_eq_false_iff.mpr hlife), ?_⟩
  show (s.pushSample w).live = _
  have hocc := hs.occupancy_le
  rw [State.pushSample_live hs, State.live_length, State.dropsOnPush_eq hs.legal hocc]
  congr 1
  split <;> omega

/-! ### One CYCLE (40_sample_clock.md R130 to R136) -/

/-- The state an emission pushes into: the window counted and its residual carried over. -/
def State.residualState (b : Bool) (s : State) : State :=
  (s.countCycle b).carryResidual (s.countedHigh b) s.countedElapsed

theorem State.emitCycle_elapsed_toNat {s : State} (b : Bool) (hs : s.Inv) :
    (s.emitCycle b).elapsed.toNat = s.countedElapsed - s.cps.toNat :=
  State.carryResidual_elapsed_toNat (h := s.countedHigh b) (State.countedElapsed_lt hs)

theorem State.emitCycle_highacc_toNat {s : State} (b : Bool) (hs : s.Inv) :
    (s.emitCycle b).highacc.toNat =
      s.countedHigh b * (s.countedElapsed - s.cps.toNat) / s.countedElapsed :=
  State.carryResidual_highacc_toNat (State.countedHigh_le b hs.highacc_le) (State.countedElapsed_lt hs)

/-- The amplitude of R134 in its two spellings. -/
theorem amplitude_eq (h e : Nat) : amplitude h e = (2 * (h : Rat) - e) / e := by
  rw [amplitude, Rat.mkRat_eq_div]
  push_cast
  rfl

/-- Settles O25. -/
theorem cycleCountsOneUnit : Obligations.CycleCountsOneUnit := by
  intro b s hs hlife hlt
  exact ⟨_, exec_cycle_of_lt_cps b (Life.inert_eq_false_iff.mpr hlife) hlt, rfl,
    State.countCycle_elapsed_toNat b hs,
    (State.countCycle_highacc_toNat b hs).trans (s.countedHigh_eq b),
    State.respond_answered_of_queues _ _ _ _ rfl rfl rfl, rfl, rfl⟩

/-- Settles O26: the residual and then the push, each by its own laws. -/
theorem cycleEmitsOneSample : Obligations.CycleEmitsOneSample := by
  intro b s h e hs hlife he hh hge
  obtain rfl : e = s.countedElapsed := he
  obtain rfl : h = s.countedHigh b := hh.trans (s.countedHigh_eq b).symm
  have hr : (s.residualState b).Inv := hs.residual b
  have hans {d : Nat} (hd : s.dropsOnPush = d) :
      s.Answered ((s.emitCycle b).respondOk 1 (BitVec.ofNat 64 s.dropsOnPush)) s.port
        ⟨.ok, 1, BitVec.ofNat 64 d, []⟩ :=
    (s.residualState b).pushSample_answered _ hd
  refine ⟨_, exec_cycle_of_cps_le b (Life.inert_eq_false_iff.mpr hlife) hge, rfl,
    State.emitCycle_elapsed_toNat b hs, State.emitCycle_highacc_toNat b hs,
    State.emitCycle_wptr_toNat b hs.legal, ?_,
    fun a ha => State.pushSample_readStore_other _ (s := s.residualState b) ha,
    fun hbelow => ?_, fun hat => ?_, rfl, rfl⟩
  · rw [← amplitude_eq]
    exact State.emitCycle_readStore_wptr b s
  · have hdrop := hs.dropsOnPush_below hbelow
    obtain ⟨hrptr, hdrops⟩ := State.pushSample_below
      (toSample (amplitude (s.countedHigh b) s.countedElapsed)) (s := s.residualState b) hdrop
    exact ⟨hrptr, hdrops, hans hdrop⟩
  · have hdrop := hs.dropsOnPush_at hat
    obtain ⟨hrptr, hdrops⟩ := State.pushSample_at hr
      (toSample (amplitude (s.countedHigh b) s.countedElapsed)) hdrop
    exact ⟨hrptr, hdrops, hans hdrop⟩

/-- Settles O27: a lowered `CPS` leaves an overshoot below `delta + UNIT`, which `CPS_MIN` still covers. -/
theorem overshootStaysBounded : Obligations.OvershootStaysBounded := by
  intro b s t delta hs hlife hdelta hbound h
  have hactive := Life.inert_eq_false_iff.mpr hlife
  have hcps := hs.cps_range
  have hcount : s.countedElapsed = s.elapsed.toNat + s.cfg.unit := rfl
  rcases Nat.lt_or_ge s.countedElapsed s.cps.toNat with hlt | hge
  · obtain rfl := Host.Outcome.next.inj ((exec_cycle_of_lt_cps b hactive hlt).symm.trans h)
    have helapsed := State.countCycle_elapsed_toNat b hs
    simp only [State.respondOk_eq, State.respond_elapsed]
    omega
  · obtain rfl := Host.Outcome.next.inj ((exec_cycle_of_cps_le b hactive hge).symm.trans h)
    have helapsed := State.emitCycle_elapsed_toNat b hs
    simp only [State.respondOk_eq, State.respond_elapsed]
    omega

/-- Settles O32: CYCLE reads of `LIFE` and `ENABLED` only that the block is active. -/
theorem countingIgnoresTheGate : Obligations.CountingIgnoresTheGate := by
  intro b s l en hlife hl
  have hactive := Life.inert_eq_false_iff.mpr hlife
  have hactive' : ({ s with life := l, enabled := en } : State).life.inert = false :=
    Life.inert_eq_false_iff.mpr hl
  rcases Nat.lt_or_ge s.countedElapsed s.cps.toNat with hlt | hge
  · exact ⟨_, exec_cycle_of_lt_cps b hactive hlt, rfl, rfl, exec_cycle_of_lt_cps b hactive' hlt⟩
  · exact ⟨_, exec_cycle_of_cps_le b hactive hge, rfl, rfl, exec_cycle_of_cps_le b hactive' hge⟩

/-! ### Runs of CYCLEs on port P (R142, R143) -/

/-- A block whose clock runs, with port P's turn. -/
structure State.Clocking (s : State) : Prop where
  inv : s.Inv
  active : s.life.inert = false
  port : s.port = .producer

theorem State.Clocking.respond {s u : State} (hs : s.Clocking) (hu : u.Inv) (hlife : u.life = s.life)
    (hport : u.port = s.port) (st : Status) (count : BitVec 32) (data : BitVec 64) (xs : List Sample) :
    (u.respond st count data xs).Clocking where
  inv := hu.respond (fun hc => absurd (hport.trans hs.port ▸ hc) (by simp)) _ _ _ _
  active := (congrArg Life.inert hlife).trans hs.active
  port := hport.trans hs.port

theorem State.respond_outP_of_producer {s : State} (hport : s.port = .producer) (st : Status)
    (count : BitVec 32) (data : BitVec 64) (xs : List Sample) :
    (s.respond st count data xs).outP = s.outP ++ [⟨st, count, data, xs⟩] := by
  rw [State.respond_outP, if_pos hport]

/-- Below the emission test, CYCLE answers 0 samples and the window grows by one UNIT. -/
theorem State.Clocking.count {s : State} (hs : s.Clocking) (b : Bool)
    (hlt : s.countedElapsed < s.cps.toNat) :
    ∃ u, exec (.cycle b) s = .next u ∧ u.Clocking ∧ u.outP = s.outP ++ [⟨.ok, 0, 0, []⟩] ∧
      u.cps = s.cps ∧ u.cfg = s.cfg ∧ u.wptr = s.wptr ∧ u.high = toggled b s.high ∧
      u.elapsed.toNat = s.countedElapsed ∧ u.highacc.toNat = s.countedHigh b :=
  ⟨_, exec_cycle_of_lt_cps b hs.active hlt,
    hs.respond (hs.inv.countCycle b hlt) rfl rfl _ _ _ _,
    State.respond_outP_of_producer (s := s.countCycle b) hs.port _ _ _ _, rfl, rfl, rfl, rfl,
    State.countCycle_elapsed_toNat b hs.inv, State.countCycle_highacc_toNat b hs.inv⟩

/-- At the emission test, CYCLE answers one sample and the overshoot stays. -/
theorem State.Clocking.emit {s : State} (hs : s.Clocking) (b : Bool)
    (hge : s.cps.toNat ≤ s.countedElapsed) :
    ∃ u d, exec (.cycle b) s = .next u ∧ u.Clocking ∧ u.outP = s.outP ++ [⟨.ok, 1, d, []⟩] ∧
      u.cps = s.cps ∧ u.cfg = s.cfg ∧ u.elapsed.toNat = s.countedElapsed - s.cps.toNat ∧
      u.highacc.toNat = s.countedHigh b * (s.countedElapsed - s.cps.toNat) / s.countedElapsed ∧
      u.wptr.toNat = (s.wptr.toNat + 1) % s.cfg.capacity ∧
      u.readStore s.wptr.toNat = toSample (amplitude (s.countedHigh b) s.countedElapsed) :=
  ⟨_, _, exec_cycle_of_cps_le b hs.active hge,
    hs.respond ((hs.inv.residual b).pushSample _) rfl rfl _ _ _ _,
    State.respond_outP_of_producer (s := s.emitCycle b) hs.port _ _ _ _, rfl, rfl,
    State.emitCycle_elapsed_toNat b hs.inv, State.emitCycle_highacc_toNat b hs.inv,
    State.emitCycle_wptr_toNat b hs.inv.legal, State.emitCycle_readStore_wptr b s⟩

/-- One CYCLE balances: the UNIT it counts is in the samples it emits and in `ELAPSED` (R143). -/
theorem State.Clocking.balance {s : State} (hs : s.Clocking) (b : Bool)
    (hlt : s.elapsed.toNat < s.cps.toNat) :
    ∃ u r, exec (.cycle b) s = .next u ∧ u.Clocking ∧ u.outP = s.outP ++ [r] ∧ u.cps = s.cps ∧
      u.cfg = s.cfg ∧ s.elapsed.toNat + s.cfg.unit = r.count.toNat * s.cps.toNat + u.elapsed.toNat ∧
      u.elapsed.toNat < s.cps.toNat ∧ (r.count = 1 → u.elapsed.toNat < s.cfg.unit) := by
  have hbounds := Config.bounds_of_legal hs.inv.legal
  have hcps := hs.inv.cps_range
  have hcount : s.countedElapsed = s.elapsed.toNat + s.cfg.unit := rfl
  rcases Nat.lt_or_ge s.countedElapsed s.cps.toNat with hbelow | hge
  · obtain ⟨u, hexec, hu, hout, hcps', hcfg, -, -, helapsed, -⟩ := hs.count b hbelow
    exact ⟨u, _, hexec, hu, hout, hcps', hcfg, by simp; omega, by omega, by simp⟩
  · obtain ⟨u, d, hexec, hu, hout, hcps', hcfg, helapsed, -⟩ := hs.emit b hge
    exact ⟨u, _, hexec, hu, hout, hcps', hcfg, by simp; omega, by omega, fun _ => by omega⟩

theorem emitted_cons (r : Response) (new : List Response) :
    emitted (r :: new) = r.count.toNat + emitted new := by
  simp [emitted]

/-- R143 from any state within a window, by induction on the CYCLEs. -/
theorem State.Clocking.cycles_balance (ts : List Bool) {s : State} (hs : s.Clocking)
    (hlt : s.elapsed.toNat < s.cps.toNat) :
    ∃ t new, cycles ts s = .next t ∧ t.cps = s.cps ∧ t.outP = s.outP ++ new ∧
      new.length = ts.length ∧
      s.elapsed.toNat + ts.length * s.cfg.unit = emitted new * s.cps.toNat + t.elapsed.toNat ∧
      t.elapsed.toNat < s.cps.toNat ∧
      (∀ r, new.getLast? = some r → r.count = 1 → t.elapsed.toNat < s.cfg.unit) := by
  induction ts generalizing s with
  | nil => exact ⟨s, [], rfl, rfl, by simp, rfl, by simp [emitted], hlt, by simp⟩
  | cons b ts ih =>
    obtain ⟨u, r, hexec, hu, hout, hcps, hcfg, hbalance, hbelow, hlast⟩ := hs.balance b hlt
    obtain ⟨t, new, hrun, hcps', hout', hlen, hbalance', hbelow', hlast'⟩ :=
      ih hu (by rw [hcps]; exact hbelow)
    rw [hcps] at hcps' hbalance' hbelow'
    rw [hcfg] at hbalance' hlast'
    refine ⟨t, r :: new, (cycles_cons hexec).trans hrun, hcps', by simp [hout', hout], by simp [hlen],
      ?_, hbelow', fun q hq hone => ?_⟩
    · rw [emitted_cons, List.length_cons, Nat.add_mul, Nat.add_mul]
      omega
    · cases new with
      | nil =>
        obtain rfl : r = q := by simpa using hq
        obtain rfl : ts = [] := List.length_eq_zero_iff.mp hlen.symm
        obtain rfl : u = t := Host.Outcome.next.inj hrun
        exact hlast hone
      | cons r' new' => exact hlast' q (by simpa using hq) hone

/-- Settles O28. -/
theorem resamplingIsDriftFree : Obligations.ResamplingIsDriftFree := by
  intro ts s hs hlife hport hzero
  have hbounds := Config.bounds_of_legal hs.legal
  have hcps := hs.cps_range
  have hrun := State.Clocking.cycles_balance ts ⟨hs, Life.inert_eq_false_iff.mpr hlife, hport⟩
    (by simp [hzero]; omega)
  simpa [hzero] using hrun

/-- R142 from within a window: it ends with its last CYCLE, by induction on those left. -/
theorem State.Clocking.window (ts : List Bool) {s : State} (hs : s.Clocking) (hne : ts ≠ [])
    (hend : s.elapsed.toNat + ts.length * s.cfg.unit = s.cps.toNat) :
    ∃ t new r, cycles ts s = .next t ∧ t.elapsed = 0 ∧ t.highacc = 0 ∧
      t.outP = s.outP ++ new ++ [r] ∧ (∀ x ∈ new, x.count = 0) ∧ r.count = 1 ∧
      t.readStore s.wptr.toNat =
        toSample (amplitude (s.highacc.toNat + highCycles s.high ts * s.cfg.unit) s.cps.toNat) ∧
      t.wptr.toNat = (s.wptr.toNat + 1) % s.cfg.capacity := by
  have hpos := (Config.bounds_of_legal hs.inv.legal).2.1
  have hcount : s.countedElapsed = s.elapsed.toNat + s.cfg.unit := rfl
  induction ts generalizing s with
  | nil => exact absurd rfl hne
  | cons b ts ih =>
    have hhigh (high : Nat) : s.countedHigh b + high * s.cfg.unit =
        s.highacc.toNat + ((if toggled b s.high then 1 else 0) + high) * s.cfg.unit := by
      rw [s.countedHigh_eq, Nat.add_mul]
      split <;> omega
    rw [List.length_cons, Nat.add_mul] at hend
    cases ts with
    | nil =>
      have heq : s.countedElapsed = s.cps.toNat := by simpa [hcount] using hend
      obtain ⟨u, d, hexec, -, hout, -, -, helapsed, hhighacc, hwptr, hread⟩ := hs.emit b heq.ge
      rw [heq, Nat.sub_self] at helapsed hhighacc
      refine ⟨u, [], _, cycles_cons hexec, BitVec.eq_of_toNat_eq helapsed,
        BitVec.eq_of_toNat_eq (by simpa using hhighacc), by simpa using hout, by simp, rfl, ?_, hwptr⟩
      rw [hread, heq]
      simpa [highCycles] using congrArg (fun h => toSample (amplitude h s.cps.toNat)) (hhigh 0)
    | cons b' ts' =>
      have hlt : s.countedElapsed < s.cps.toNat := by
        rw [List.length_cons, Nat.add_mul] at hend
        omega
      obtain ⟨u, hexec, hu, hout, hcps, hcfg, hwptr, hlevel, helapsed, hhighacc⟩ := hs.count b hlt
      obtain ⟨t, new, r, hrun, hzero, hzero', hout', hnew, hone, hread, hwptr'⟩ :=
        ih hu (by simp) (by rw [helapsed, hcfg, hcps]; omega) (hcfg ▸ hpos) rfl
      refine ⟨t, ⟨.ok, 0, 0, []⟩ :: new, r, (cycles_cons hexec).trans hrun, hzero, hzero',
        by simp [hout', hout], List.forall_mem_cons.mpr ⟨rfl, hnew⟩, hone, ?_, by rw [hwptr', hwptr, hcfg]⟩
      rw [← hwptr, hread, hhighacc, hlevel, hcps, hcfg, hhigh]
      rfl

/-- A window of `n` units of which `h` are high has the amplitude `2h/n - 1`, whatever the unit. -/
theorem amplitude_units {h n unit : Nat} (hn : 0 < n) (hunit : 0 < unit) :
    amplitude (h * unit) (n * unit) = 2 * (h : Rat) / (n : Rat) - 1 := by
  have hn' : (n : Rat) ≠ 0 := by positivity
  have hunit' : (unit : Rat) ≠ 0 := by positivity
  rw [amplitude_eq]
  push_cast
  field_simp

/-- Settles O29. -/
theorem dutyCycleIsCorrect : Obligations.DutyCycleIsCorrect := by
  intro ts s hs hlife hport hzero hzero' hcps
  have hbounds := Config.bounds_of_legal hs.legal
  have hrange := hs.cps_range
  have hne : ts ≠ [] := by
    rintro rfl
    simp at hcps
    omega
  obtain ⟨t, new, r, hrun, helapsed, hhighacc, hout, hnew, hone, hread, hwptr⟩ :=
    State.Clocking.window ts ⟨hs, Life.inert_eq_false_iff.mpr hlife, hport⟩ hne (by simp [hzero, hcps])
  refine ⟨t, new, r, hrun, helapsed, hhighacc, hout, hnew, hone, ?_, hwptr⟩
  rw [hread, hzero', hcps, ← amplitude_units (List.length_pos_iff.mpr hne) hbounds.2.1]
  simp

end Sys2Proof.Machine

/-! PROOFS. 41_ring_buffer.md: POP_BLOCK, one action at a time and without interleaving (R164 to R168), in
lemmas that PUMP's own POP_BLOCK uses too. -/

namespace Sys2Proof.Machine

/-! ### The actions of POP_BLOCK (R165) -/

theorem exec_popBlock_start {s : State} (n : BitVec 32) (hidle : s.flight = .idle)
    (hlife : s.life.inert = false) :
    exec (.popBlock n) s = .next { s.popClaim n.toNat with flight := .pop } := by
  show execPopBlock n s = _
  rw [execPopBlock, hidle]
  exact congrArg Host.Outcome.next (if_neg (by simp [hlife]))

theorem exec_popBlock_of_pop {s : State} (n : BitVec 32) (hflight : s.flight = .pop) :
    exec (.popBlock n) s = .next s.popNext := by
  show execPopBlock n s = _
  rw [execPopBlock, hflight]

theorem exec_popBlock_copy {s : State} (n : BitVec 32) (hflight : s.flight = .pop)
    (hlen : s.ctOut.length < s.ctK.toNat) : exec (.popBlock n) s = .next s.popCopy := by
  rw [exec_popBlock_of_pop n hflight, State.popNext, if_pos hlen]

theorem exec_popBlock_commit {s : State} (n : BitVec 32) (hflight : s.flight = .pop)
    (hlen : s.ctK.toNat ≤ s.ctOut.length) (hlife : s.life ≠ .destroyed) :
    exec (.popBlock n) s =
      .next ({ s.popCommit with flight := .idle }.respond .ok s.ctK 0 s.ctOut) := by
  rw [exec_popBlock_of_pop n hflight, State.popNext, if_neg (Nat.not_lt.mpr hlen), if_neg hlife]

theorem exec_popBlock_abandon {s : State} (n : BitVec 32) (hflight : s.flight = .pop)
    (hlen : s.ctK.toNat ≤ s.ctOut.length) (hlife : s.life = .destroyed) :
    exec (.popBlock n) s =
      .next ({ s.popAbandon with flight := .idle }.respond .inert s.ctK 0 s.ctOut) := by
  rw [exec_popBlock_of_pop n hflight, State.popNext, if_neg (Nat.not_lt.mpr hlen), if_pos hlife]

/-! ### The commit (R166) -/

/-- The commit removes from the front what the producer's drops have not removed already. -/
theorem State.popCommit_live {s : State} (hl : s.cfg.Legal) (hr : s.rptr.toNat < s.cfg.capacity)
    (hk : s.ctK.toNat ≤ s.occupancy) :
    s.popCommit.live = s.live.drop (s.ctK.toNat - s.dropsSinceClaim) := by
  refine List.ext_getElem ?_ fun i h1 h2 => ?_
  · rw [List.length_drop, State.live_length, State.live_length, State.popCommit_occupancy hl hr hk]
  · rw [State.live_getElem, List.getElem_drop, State.live_getElem, State.popCommit_rptr_of_rptr hl hr,
      State.popCommit_cfg, Nat.mod_add_mod, Nat.add_assoc]
    rfl

/-- When the drops have passed the claim, the commit leaves `RPTR` where they left it. -/
theorem State.popCommit_rptr_of_le {s : State} (hl : s.cfg.Legal) (hr : s.rptr.toNat < s.cfg.capacity)
    (hle : s.ctK.toNat ≤ s.dropsSinceClaim) : s.popCommit.rptr = s.rptr := by
  apply BitVec.eq_of_toNat_eq
  rw [State.popCommit_rptr_of_rptr hl hr, Nat.sub_eq_zero_of_le hle, Nat.add_zero, Nat.mod_eq_of_lt hr]

/-! ### Runs of copies (R165, R167) -/

/-- The command `i` is past the claim of its POP_BLOCK, issued directly or inside PUMP. -/
def State.PastClaim (s : State) (i : Instr) : Prop :=
  (∃ n, i = .popBlock n ∧ s.flight = .pop) ∨
    ∃ l, i = .pump ∧ s.flight = .pump l ∧ l.point = .popping

theorem exec_copy {s : State} {i : Instr} (h : s.PastClaim i) (hlen : s.ctOut.length < s.ctK.toNat) :
    exec i s = .next s.popCopy := by
  obtain ⟨n, rfl, hflight⟩ | ⟨l, rfl, hflight, hpoint⟩ := h
  · exact exec_popBlock_copy n hflight hlen
  · show execPump s = _
    simp only [execPump, hflight, State.pumpNext, hpoint, State.pumpPop, if_pos hlen]

/-- The state after `m` copies. -/
def State.copyMore (m : Nat) (s : State) : State :=
  { s with
    ctOut := s.ctOut ++ (List.range m).map fun j =>
      s.readStore ((s.ctR0.toNat + (s.ctOut.length + j)) % s.cfg.capacity) }

theorem State.popCopy_copyMore (m : Nat) (s : State) : (s.copyMore m).popCopy = s.copyMore (m + 1) := by
  simp [State.popCopy, State.copyMore, List.range_succ, State.readStore]

theorem actions_one {i : Instr} {s t : State} (h : exec i s = .next t) : actions i 1 s = .next t :=
  actions_succ h

/-- `m` copies in a row, by induction on `m`. -/
theorem actions_copies {s : State} {i : Instr} (h : s.PastClaim i) (m : Nat)
    (hlen : s.ctOut.length + m ≤ s.ctK.toNat) : actions i m s = .next (s.copyMore m) := by
  induction m with
  | zero => simp [actions, State.copyMore]
  | succ m ih =>
    have hlast : exec i (s.copyMore m) = .next (s.copyMore (m + 1)) := by
      rw [exec_copy (s := s.copyMore m) h (by simp [State.copyMore]; omega), State.popCopy_copyMore]
    rw [actions_add (ih (by omega)), actions_one hlast]

/-- The oldest unread samples, cell by cell (20_memory.md R74). -/
theorem State.live_take (s : State) (n : Nat) :
    s.live.take n = (List.range (min n s.occupancy)).map fun j =>
      s.readStore ((s.rptr.toNat + j) % s.cfg.capacity) := by
  rw [State.live, ← List.map_take, List.take_range]

theorem State.live_drop_min (s : State) (n : Nat) :
    s.live.drop (min n s.occupancy) = s.live.drop n := by
  rcases Nat.le_total n s.occupancy with h | h
  · rw [min_eq_left h]
  · rw [min_eq_right h, List.drop_eq_nil_of_le (by simp), List.drop_eq_nil_of_le (by simpa using h)]

/-- The state at the commit of a claim of up to `n` samples that nothing has come between: the `f` flight
with all samples copied. -/
def State.copied (n : Nat) (f : Flight) (s : State) : State :=
  { s.popClaim n with flight := f, ctOut := s.live.take n }

/-- From the claim to the commit without interleaving. -/
theorem actions_copies_of_claim {s : State} {i : Instr} (hs : s.Inv) (n : Nat) {f : Flight}
    (h : { s.popClaim n with flight := f }.PastClaim i) :
    actions i (min n s.occupancy) { s.popClaim n with flight := f } = .next (s.copied n f) := by
  have hk := State.popClaim_ctK_toNat hs.legal hs.occupancy_le n
  rw [actions_copies h (min n s.occupancy)
    (by rw [show (State.ctK _).toNat = _ from hk]; simp), State.copied, State.live_take]
  simp [State.copyMore, State.readStore]

theorem State.copied_length {s : State} (hs : s.Inv) (n : Nat) (f : Flight) :
    (s.copied n f).ctOut.length = (s.copied n f).ctK.toNat := by
  have hk := State.popClaim_ctK_toNat hs.legal hs.occupancy_le n
  exact (by simp [State.copied] : (s.copied n f).ctOut.length = min n s.occupancy).trans hk.symm

/-- The commit of an undisturbed claim takes exactly the claimed samples. -/
theorem State.copied_popCommit_live {s : State} (hs : s.Inv) (n : Nat) (f : Flight) :
    (s.copied n f).popCommit.live = s.live.drop n := by
  have hk : (s.copied n f).ctK.toNat = min n s.occupancy :=
    State.popClaim_ctK_toNat hs.legal hs.occupancy_le n
  have hd : (s.copied n f).dropsSinceClaim = 0 := modSub_self _ _
  rw [State.popCommit_live (s := s.copied n f) hs.legal hs.rptr_lt (hk.trans_le (min_le_right _ _)), hk, hd]
  exact s.live_drop_min n

/-! ### The obligations -/

/-- Settles O35. -/
theorem popClaimTakesTheSnapshot : Obligations.PopClaimTakesTheSnapshot := by
  intro n s hs hlife hidle
  exact ⟨_, exec_popBlock_start n hidle (Life.inert_eq_false_iff.mpr hlife),
    State.popClaim_ctK_toNat hs.legal hs.occupancy_le _, rfl⟩

/-- Settles O36. -/
theorem popCopyReadsOneCell : Obligations.PopCopyReadsOneCell :=
  fun n _ hflight hlen => exec_popBlock_copy n hflight hlen

/-- Settles O37: `d` is the distance the commit measures, so it moves `RPTR` by `k - d` or not at all. -/
theorem popCommitNeverMovesBackward : Obligations.PopCommitNeverMovesBackward := by
  intro n s d hs hlife hflight hlen hd hrptr
  have hdrops : s.dropsSinceClaim = d :=
    modSub_unique hd (hrptr.trans (Nat.mod_eq_of_lt hs.rptr_lt).symm)
  have hlive := State.popCommit_live hs.legal hs.rptr_lt (hs.claim_of_pop hflight).1
  have hmove := State.popCommit_rptr_toNat (s := s) hs.legal
  rw [hdrops] at hlive hmove
  exact ⟨_, exec_popBlock_commit n hflight hlen.ge hlife, hmove, hlive,
    fun hle => State.popCommit_rptr_of_le hs.legal hs.rptr_lt (hdrops ▸ hle),
    State.respond_answered_of_queues _ _ _ _ rfl rfl rfl, rfl, rfl⟩

/-- Settles O38. -/
theorem popAfterDestroyKeepsRptr : Obligations.PopAfterDestroyKeepsRptr :=
  fun n _ hlife hflight hlen =>
    ⟨_, exec_popBlock_abandon n hflight hlen hlife,
      State.respond_answered_of_queues _ _ _ _ rfl rfl rfl, rfl, rfl⟩

/-- Settles O39: a claim, the copies, the commit. -/
theorem uninterruptedPopTakesTheOldest : Obligations.UninterruptedPopTakesTheOldest := by
  intro n s hs hlife hidle
  have hactive := Life.inert_eq_false_iff.mpr hlife
  have hcopies := actions_copies_of_claim hs n.toNat (f := .pop) (.inl ⟨n, rfl, rfl⟩)
  have hcommit := exec_popBlock_commit (s := s.copied n.toNat .pop) n rfl
    (State.copied_length hs _ _).ge (Life.ne_destroyed_of_active hactive)
  have hrun := (actions_succ (exec_popBlock_start n hidle hactive)).trans
    ((actions_add hcopies).trans (actions_one hcommit))
  refine ⟨_, hrun, State.respond_answered_of_queues _ _ _ _ rfl rfl rfl,
    State.copied_popCommit_live hs n.toNat .pop, rfl, rfl, ?_, rfl⟩
  simp [State.block, State.copied, hidle, hs.ctActive_of_idle hidle]

/-- Settles O40: the count fits its field, because an occupancy is below the capacity. -/
theorem occupancyCountsUnreadSamples : Obligations.OccupancyCountsUnreadSamples := by
  intro s hs hlife
  have hbounds := Config.bounds_of_legal hs.legal
  have hocc := hs.occupancy_le
  refine ⟨_, _, congrArg Host.Outcome.next (if_neg ?_), s.respond_answered _ _ _ _, ?_, rfl, rfl⟩
  · rw [Life.inert_eq_false_iff.mpr hlife]
    exact Bool.false_ne_true
  · rw [State.live_length, BitVec.toNat_ofNat, Nat.mod_eq_of_lt (by omega)]

end Sys2Proof.Machine

/-! PROOFS. 43_output_pump.md and 42_rate_adapter.md: PUMP, one action at a time (R220 to R229), the rate
step it ends with (R200 to R204), and a whole PUMP without interleaving. -/

namespace Sys2Proof.Machine

/-! ### The actions of PUMP (R220) -/

theorem exec_pump_start {s : State} (hidle : s.flight = .idle) (hlife : s.life.inert = false) :
    exec .pump s = .next
      { s with
        pendLen := if s.gate then s.pendLen else 0
        flight := .pump
          { fwd := s.gate
            occ := BitVec.ofNat 32 s.occupancy
            acc := 0
            tail := false
            fl := false
            point := pumpStep2 s.cfg s.gate s.occupancy s.pendLen.toNat } } := by
  show execPump s = _
  rw [execPump, hidle]
  exact congrArg Host.Outcome.next (if_neg (by simp [hlife]))

theorem exec_pump_of_flight {s : State} {l : PumpFlight} (hflight : s.flight = .pump l) :
    exec .pump s = .next (s.pumpNext l) := by
  show execPump s = _
  rw [execPump, hflight]

section
variable {s : State} {l : PumpFlight} (hflight : s.flight = .pump l)
include hflight

theorem exec_pump_claim (hpoint : l.point = .claim) (hlife : s.life.inert = false) :
    exec .pump s =
      .next { s.popClaim s.cfg.block with flight := .pump { l with point := .popping } } := by
  simp [exec_pump_of_flight hflight, State.pumpNext, hpoint, State.pumpClaim, hlife]

theorem exec_pump_copy (hpoint : l.point = .popping) (hlen : s.ctOut.length < s.ctK.toNat) :
    exec .pump s = .next s.popCopy :=
  exec_copy (.inr ⟨l, rfl, hflight, hpoint⟩) hlen

theorem exec_pump_commit (hpoint : l.point = .popping) (hlen : s.ctK.toNat ≤ s.ctOut.length)
    (hlife : s.life ≠ .destroyed) :
    exec .pump s = .next
      { s.popCommit with
        flight := .pump { l with point := if l.fwd then .offerBlock s.ctOut else .queuedDepth } } := by
  simp only [exec_pump_of_flight hflight, State.pumpNext, hpoint, State.pumpPop,
    if_neg (Nat.not_lt.mpr hlen), if_neg hlife]

theorem exec_pump_offer {xs : List Sample}
    (hpoint : l.point = .offerBlock xs ∨ (l.point = .offerPending ∧ xs = s.pending))
    (hlife : s.life ≠ .destroyed) :
    exec .pump s = .next
      { (s.sinkEnqueue xs).setPending (xs.drop (s.nextAccept xs.length)) with
        flight := .pump
          { l with
            acc := BitVec.ofNat 32 (s.nextAccept xs.length)
            tail := s.nextAccept xs.length < xs.length
            point := .queuedDepth } } := by
  obtain hpoint | ⟨hpoint, rfl⟩ := hpoint
  · simp only [exec_pump_of_flight hflight, State.pumpNext, hpoint, State.pumpOffer, if_neg hlife]
  · simp only [exec_pump_of_flight hflight, State.pumpNext, hpoint, State.pumpOffer, if_neg hlife]

theorem exec_pump_depth (hpoint : l.point = .queuedDepth) (hlife : s.life ≠ .destroyed) :
    exec .pump s = .next
      { s.sinkQueuedDepth with
        flight := .pump
          { l with
            point :=
              if s.cfg.sinkFlushDepth.toNat < s.nextDepth.toNat then .flush s.nextDepth
              else .adjust s.nextDepth } } := by
  simp only [exec_pump_of_flight hflight, State.pumpNext, hpoint, State.pumpDepth, if_neg hlife]

theorem exec_pump_flush {q : BitVec 32} (hpoint : l.point = .flush q) (hlife : s.life ≠ .destroyed) :
    exec .pump s = .next
      { s.callSink .flush with flight := .pump { l with fl := true, point := .adjust q } } := by
  simp only [exec_pump_of_flight hflight, State.pumpNext, hpoint, State.pumpFlush, if_neg hlife]

theorem exec_pump_adjust {q : BitVec 32} (hpoint : l.point = .adjust q) (hlife : s.life ≠ .destroyed) :
    exec .pump s = .next
      ({ s with cps := (s.rateAdjust (rateReading s.cfg l.occ q)).cps, flight := .idle }.respond
        (if l.tail then .sinkPartial else .ok) l.acc l.dataWord []) := by
  simp only [exec_pump_of_flight hflight, State.pumpNext, hpoint, State.pumpAdjust, if_neg hlife]
  rw [s.rateAdjust_eq]

/-- R229: outside a copy, a destroyed block ends PUMP. -/
theorem exec_pump_destroyed (hpoint : l.point ≠ .popping) (hlife : s.life = .destroyed) :
    exec .pump s = .next (s.pumpInert l) := by
  have hinert : s.life.inert = true := by rw [hlife]; rfl
  rw [exec_pump_of_flight hflight]
  cases hp : l.point with
  | popping => exact absurd hp hpoint
  | claim => simp only [State.pumpNext, hp, State.pumpClaim, if_pos hinert]
  | offerPending => simp only [State.pumpNext, hp, State.pumpOffer, if_pos hlife]
  | offerBlock xs => simp only [State.pumpNext, hp, State.pumpOffer, if_pos hlife]
  | queuedDepth => simp only [State.pumpNext, hp, State.pumpDepth, if_pos hlife]
  | flush q => simp only [State.pumpNext, hp, State.pumpFlush, if_pos hlife]
  | adjust q => simp only [State.pumpNext, hp, State.pumpAdjust, if_pos hlife]

theorem exec_pump_abandon (hpoint : l.point = .popping) (hlen : s.ctK.toNat ≤ s.ctOut.length)
    (hlife : s.life = .destroyed) : exec .pump s = .next (s.popAbandon.pumpInert l) := by
  simp only [exec_pump_of_flight hflight, State.pumpNext, hpoint, State.pumpPop,
    if_neg (Nat.not_lt.mpr hlen), if_pos hlife]

end

/-! ### The rate and the response (42_rate_adapter.md R200 to R204, 43_output_pump.md R228) -/

/-- The rate one step down, clamped at `CPS_MIN` (R202). -/
theorem State.rateAdjust_down {s : State} (hs : s.Inv) {v : Nat} (hv : v < s.cfg.rateLwm) :
    (s.rateAdjust v).cps.toNat = max (s.cps.toNat - s.cfg.cpsStep) s.cfg.cpsMin := by
  have hbounds := Config.bounds_of_legal hs.legal
  have hcps := hs.cps_range
  have hclamp := clampCps_toNat hs.legal ((s.cps.toNat : Int) - (s.cfg.cpsStep : Int))
  rw [State.rateAdjust_cps_eq, if_pos hv]
  omega

/-- The rate one step up, clamped at `CPS_MAX` (R202). -/
theorem State.rateAdjust_up {s : State} (hs : s.Inv) {v : Nat} (hv : s.cfg.rateHwm < v) :
    (s.rateAdjust v).cps.toNat = min (s.cps.toNat + s.cfg.cpsStep) s.cfg.cpsMax := by
  have hbounds := Config.bounds_of_legal hs.legal
  have hcps := hs.cps_range
  have hclamp := clampCps_toNat hs.legal ((s.cps.toNat : Int) + (s.cfg.cpsStep : Int))
  rw [State.rateAdjust_cps_eq, if_neg (by omega), if_pos hv]
  omega

/-- Within the dead band the rate stays. -/
theorem State.rateAdjust_within {s : State} {v : Nat} (hlow : s.cfg.rateLwm ≤ v) (hhigh : v ≤ s.cfg.rateHwm) :
    (s.rateAdjust v).cps = s.cps := by
  rw [State.rateAdjust_cps_eq, if_neg (Nat.not_lt.mpr hlow), if_neg (Nat.not_lt.mpr hhigh)]

/-- Words side by side, as numbers. -/
theorem toNat_append_eq {m n : Nat} (x : BitVec m) (y : BitVec n) :
    (x ++ y).toNat = x.toNat * 2 ^ n + y.toNat := by
  rw [BitVec.toNat_append, ← Nat.shiftLeft_add_eq_or_of_lt y.isLt, Nat.shiftLeft_eq]

/-- PUMP's data word as a number (R228). -/
theorem PumpFlight.dataWord_toNat (l : PumpFlight) :
    l.dataWord.toNat = l.occ.toNat + (if l.fwd then 2 ^ 32 else 0) + (if l.fl then 2 ^ 33 else 0) := by
  rw [PumpFlight.dataWord, toNat_append_eq, toNat_append_eq, toNat_append_eq]
  cases l.fwd <;> cases l.fl <;> simp <;> omega

theorem State.Inv.occupancy_toNat {s : State} (hs : s.Inv) :
    (BitVec.ofNat 32 s.occupancy).toNat = s.occupancy := by
  have hbounds := Config.bounds_of_legal hs.legal
  have hocc := hs.occupancy_le
  rw [BitVec.toNat_ofNat, Nat.mod_eq_of_lt (by omega)]

/-! ### The obligations, one action each -/

/-- Settles O41. -/
theorem pumpSamplesTheGateOnce : Obligations.PumpSamplesTheGateOnce := by
  intro s hs hlife hidle
  have hclosed (h : s.gate = false ∨ s.pendLen = 0) : ¬ (s.gate = true ∧ 0 < s.pendLen.toNat) := by
    rcases h with h | h <;> simp [h]
  refine ⟨_, _, exec_pump_start hidle (Life.inert_eq_false_iff.mpr hlife), rfl, rfl, hs.occupancy_toNat,
    rfl, rfl, rfl, rfl, fun hfwd hpend => ?_, fun hno hocc => ?_, fun hno hocc => ?_, rfl⟩
  · exact if_pos ⟨hfwd, hpend⟩
  · exact (if_neg (hclosed hno)).trans (if_pos hocc)
  · exact (if_neg (hclosed hno)).trans (if_neg (Nat.not_lt.mpr hocc))

/-- Settles O42. -/
theorem pumpPopsABlock : Obligations.PumpPopsABlock := by
  intro s l hs hlife hflight
  have hactive := hs.active_of_flight (by simp [hflight]) hlife
  refine ⟨fun hpoint => ?_, fun hpoint hlen => exec_pump_copy hflight hpoint hlen, fun hpoint hlen => ?_⟩
  · exact ⟨_, exec_pump_claim hflight hpoint hactive,
      State.popClaim_ctK_toNat hs.legal hs.occupancy_le _, rfl⟩
  · exact ⟨_, exec_pump_commit hflight hpoint hlen.ge hlife,
      State.popCommit_live hs.legal hs.rptr_lt (hs.claim_of_popping hflight hpoint).1, rfl⟩

/-- The tail that an `Enqueue` leaves is what is pending afterwards, and the cells beyond it stay (R224). -/
theorem State.setPending_readPend {s : State} {tail : List Sample} {i : Nat} (h : tail.length ≤ i) :
    (s.setPending tail).readPend i = s.readPend i := by
  simp [State.readPend, Memory.find_writeList_outside (m := s.pend) (a := 0) (xs := tail) (b := i)
    (.inr (by simpa using h))]

theorem State.nextAccept_of_listed {s : State} {v : Nat} {rest : List Nat} (h : s.sinkAccepts = v :: rest)
    (n : Nat) : s.nextAccept n = min v n := by
  rw [State.nextAccept, h]

/-- Settles O43. -/
theorem enqueueLosesAndRepeatsNothing : Obligations.EnqueueLosesAndRepeatsNothing := by
  intro s l xs hs hlife hflight hpoint
  have hbounds := Config.bounds_of_legal hs.legal
  obtain ⟨-, -, hblock⟩ := hs.offer hflight hpoint
  have hpending : ((s.sinkEnqueue xs).setPending (xs.drop (s.nextAccept xs.length))).pending =
      xs.drop (s.nextAccept xs.length) :=
    State.setPending_pending _ (by simp; omega)
  refine ⟨_, s.nextAccept xs.length, exec_pump_offer hflight hpoint hlife, State.nextAccept_le _ _, rfl,
    ?_, rfl, fun v rest hlisted => ⟨State.nextAccept_of_listed hlisted _, ?_⟩, rfl,
    fun i hi => ?_, rfl, rfl⟩
  · exact (congrArg (xs.take (s.nextAccept xs.length) ++ ·) hpending).trans (List.take_append_drop _ _)
  · show s.sinkAccepts.tail = rest
    rw [hlisted, List.tail_cons]
  · exact State.setPending_readPend (s := s.sinkEnqueue xs) (by simpa using hi)

/-- Settles O44. -/
theorem pumpFlushesADeepSink : Obligations.PumpFlushesADeepSink := by
  intro s l hlife hflight
  refine ⟨fun hpoint => ?_, fun q hpoint => exec_pump_flush hflight hpoint hlife⟩
  refine ⟨_, s.nextDepth, exec_pump_depth hflight hpoint hlife, rfl, fun v rest hlisted => ⟨?_, ?_⟩, rfl,
    rfl, rfl⟩
  · rw [State.nextDepth, hlisted]
  · show s.sinkDepths.tail = rest
    rw [hlisted, List.tail_cons]

/-- Settles O45. -/
theorem pumpAdjustsTheRateAndResponds : Obligations.PumpAdjustsTheRateAndResponds := by
  intro s l q v hs hlife hflight hpoint hv
  obtain rfl : v = rateReading s.cfg l.occ q := hv
  exact ⟨_, _, exec_pump_adjust hflight hpoint hlife, fun h => State.rateAdjust_down hs h,
    fun h => State.rateAdjust_up hs h, fun h h' => State.rateAdjust_within h h',
    State.respond_answered_of_queues _ _ _ _ rfl rfl rfl, l.dataWord_toNat, rfl, rfl⟩

/-- Settles O47: at a copy the block is not looked at; at every other point the command ends. -/
theorem pumpEndsInertAfterDestroy : Obligations.PumpEndsInertAfterDestroy := by
  intro s l hlife hflight
  refine ⟨fun hpoint hlen => exec_pump_copy hflight hpoint hlen, fun hnot => ?_⟩
  by_cases hpoint : l.point = .popping
  · have hlen : s.ctK.toNat ≤ s.ctOut.length := Nat.not_lt.mp fun h => hnot ⟨hpoint, h⟩
    exact ⟨_, exec_pump_abandon hflight hpoint hlen hlife,
      State.respond_answered_of_queues _ _ _ _ rfl rfl rfl, by rw [if_pos hpoint]; rfl, rfl⟩
  · exact ⟨_, exec_pump_destroyed hflight hpoint hlife,
      State.respond_answered_of_queues _ _ _ _ rfl rfl rfl, by rw [if_neg hpoint]; rfl, rfl⟩

/-! ### A whole PUMP (R220, R225 to R228) -/

/-- The locals of a PUMP that found the gate open. -/
def State.openLocals (s : State) (p : PumpPoint) : PumpFlight :=
  { fwd := true, occ := BitVec.ofNat 32 s.occupancy, acc := 0, tail := false, fl := false, point := p }

theorem exec_pump_start_to_claim {s : State} (hlife : s.life = .playing) (henabled : s.enabled = true)
    (hidle : s.flight = .idle) (hpend : s.pendLen = 0) (hocc : s.cfg.pushThreshold < s.occupancy) :
    exec .pump s = .next { s with flight := .pump (s.openLocals .claim) } := by
  have hgate : s.gate = true := by simp [State.gate, hlife, henabled]
  rw [exec_pump_start hidle (by rw [hlife]; rfl)]
  simp [State.openLocals, hgate, pumpStep2, hpend, hocc]

/-- The state after PUMP's POP_BLOCK of up to `n` samples: they have left the ring and are on offer. -/
def State.pumpPopped (n : Nat) (s : State) : State :=
  { (s.copied n .idle).popCommit with
    flight := .pump (s.openLocals (.offerBlock (s.live.take n))) }

/-- The first action, the claim, the copies and the commit. -/
theorem actions_pump_to_offer {s : State} (hs : s.Inv) (hlife : s.life = .playing)
    (henabled : s.enabled = true) (hidle : s.flight = .idle) (hpend : s.pendLen = 0)
    (hocc : s.cfg.pushThreshold < s.occupancy) :
    actions .pump (min s.cfg.block s.occupancy + 3) s = .next (s.pumpPopped s.cfg.block) := by
  have hactive : s.life.inert = false := by rw [hlife]; rfl
  have hclaim := exec_pump_claim (s := { s with flight := .pump (s.openLocals .claim) }) rfl rfl hactive
  have hcopies := actions_copies_of_claim hs s.cfg.block (i := .pump)
    (f := .pump (s.openLocals .popping)) (.inr ⟨_, rfl, rfl, rfl⟩)
  have hcommit := exec_pump_commit (s := s.copied s.cfg.block (.pump (s.openLocals .popping))) rfl rfl
    (State.copied_length hs _ _).ge (Life.ne_destroyed_of_active hactive)
  exact (actions_succ (exec_pump_start_to_claim hlife henabled hidle hpend hocc)).trans
    ((actions_succ hclaim).trans ((actions_add hcopies).trans (actions_one hcommit)))

/-- The locals after an `Enqueue` of `xs` of which the sink took `a`. -/
def PumpFlight.offered (xs : List Sample) (a : Nat) (l : PumpFlight) : PumpFlight :=
  { l with acc := BitVec.ofNat 32 a, tail := a < xs.length, point := .queuedDepth }

/-- The state after that `Enqueue`. -/
def State.pumpOffered (l : PumpFlight) (xs : List Sample) (a : Nat) (s : State) : State :=
  { s.setPending (xs.drop a) with
    sinkAccepts := s.sinkAccepts.tail
    sinkCalls := s.sinkCalls ++ [.enqueue xs a]
    flight := .pump (l.offered xs a) }

/-- The sink's queue is deeper than `SINK_FLUSH_DEPTH` (R226). -/
abbrev State.Deep (q : BitVec 32) (s : State) : Prop := s.cfg.sinkFlushDepth.toNat < q.toNat

/-- The state after `QueuedDepth` answered `q` and, when that is deep, `Flush`. -/
def State.pumpAsked (l : PumpFlight) (q : BitVec 32) (s : State) : State :=
  { s with
    sinkDepths := s.sinkDepths.tail
    sinkCalls := s.sinkCalls ++ [.queuedDepth q] ++ (if s.Deep q then [.flush] else [])
    flight := .pump { l with fl := s.Deep q, point := .adjust q } }

/-- The state after the rate step and the response. -/
def State.pumpFinished (l : PumpFlight) (q : BitVec 32) (s : State) : State :=
  { s with cps := (s.rateAdjust (rateReading s.cfg l.occ q)).cps, flight := .idle }.respond
    (if l.tail then .sinkPartial else .ok) l.acc l.dataWord []

section
variable {s : State} {l : PumpFlight} (hflight : s.flight = .pump l) (hlife : s.life ≠ .destroyed)
include hflight hlife

theorem exec_pump_offer_listed {xs : List Sample} {a : Nat} {as : List Nat}
    (hpoint : l.point = .offerBlock xs) (hlisted : s.sinkAccepts = a :: as) (ha : a ≤ xs.length) :
    exec .pump s = .next (s.pumpOffered l xs a) := by
  have haccept : s.nextAccept xs.length = a := by
    rw [State.nextAccept_of_listed hlisted, min_eq_left ha]
  rw [exec_pump_offer hflight (.inl hpoint) hlife]
  simp [State.pumpOffered, PumpFlight.offered, State.sinkEnqueue, State.setPending, haccept, hlisted]

/-- `QueuedDepth`, and `Flush` when its answer is deep. -/
theorem actions_pump_ask {q : BitVec 32} {qs : List (BitVec 32)} (hpoint : l.point = .queuedDepth)
    (hfl : l.fl = false) (hlisted : s.sinkDepths = q :: qs) :
    actions .pump (1 + if s.Deep q then 1 else 0) s = .next (s.pumpAsked l q) := by
  have hdepth : s.nextDepth = q := by rw [State.nextDepth, hlisted]
  have hask := exec_pump_depth hflight hpoint hlife
  rw [hdepth] at hask
  by_cases hdeep : s.Deep q
  · rw [if_pos hdeep] at hask ⊢
    have hflush := exec_pump_flush
      (s := { s.sinkQueuedDepth with flight := .pump { l with point := .flush q } }) rfl rfl hlife
    refine (actions_succ hask).trans ((actions_one hflush).trans ?_)
    simp [State.pumpAsked, State.sinkQueuedDepth, State.callSink, hdepth, hlisted, hdeep]
  · rw [if_neg hdeep] at hask ⊢
    refine (actions_one hask).trans ?_
    simp [State.pumpAsked, State.sinkQueuedDepth, hdepth, hlisted, hdeep, hfl]

end

/-- The state at the end of a PUMP that offered `xs`: `a` samples taken, depth `q`. -/
def State.pumpMoved (l : PumpFlight) (xs : List Sample) (a : Nat) (q : BitVec 32) (s : State) : State :=
  ((s.pumpOffered l xs a).pumpAsked (l.offered xs a) q).pumpFinished
    { l.offered xs a with fl := s.Deep q } q

/-- From the offer to the response, with listed answers of the sink. -/
theorem actions_pump_from_offer {s : State} {l : PumpFlight} {xs : List Sample} {a : Nat} {as : List Nat}
    {q : BitVec 32} {qs : List (BitVec 32)} (hflight : s.flight = .pump l) (hlife : s.life ≠ .destroyed)
    (hpoint : l.point = .offerBlock xs) (hfl : l.fl = false) (haccepts : s.sinkAccepts = a :: as)
    (ha : a ≤ xs.length) (hdepths : s.sinkDepths = q :: qs) :
    actions .pump ((1 + (if s.Deep q then 1 else 0)) + 1 + 1) s = .next (s.pumpMoved l xs a q) := by
  have hoffer := exec_pump_offer_listed hflight hlife hpoint haccepts ha
  have hask := actions_pump_ask (s := s.pumpOffered l xs a) (l := l.offered xs a) rfl hlife rfl hfl hdepths
  have hadjust := exec_pump_adjust (s := (s.pumpOffered l xs a).pumpAsked (l.offered xs a) q) rfl rfl hlife
  exact (actions_succ hoffer).trans ((actions_add hask).trans (actions_one hadjust))

section
variable (l : PumpFlight) (xs : List Sample) (a : Nat) (q : BitVec 32) (s : State)

theorem State.pumpMoved_live : (s.pumpMoved l xs a q).live = s.live := rfl

theorem State.pumpMoved_pending (h : xs.length < 2 ^ 32) : (s.pumpMoved l xs a q).pending = xs.drop a :=
  s.setPending_pending (by simp; omega)

theorem State.pumpMoved_sinkCalls :
    (s.pumpMoved l xs a q).sinkCalls =
      s.sinkCalls ++ [.enqueue xs a, .queuedDepth q] ++ (if s.Deep q then [.flush] else []) := by
  show (s.sinkCalls ++ [.enqueue xs a]) ++ [.queuedDepth q] ++ (if s.Deep q then [.flush] else []) = _
  simp

theorem State.pumpMoved_cps :
    (s.pumpMoved l xs a q).cps = (s.rateAdjust (rateReading s.cfg l.occ q)).cps := by
  rw [State.rateAdjust_cps_eq]
  exact State.rateAdjust_cps_eq _ _

theorem State.pumpMoved_answers :
    (s.pumpMoved l xs a q).sinkAccepts = s.sinkAccepts.tail ∧
      (s.pumpMoved l xs a q).sinkDepths = s.sinkDepths.tail := ⟨rfl, rfl⟩

theorem State.pumpMoved_answered :
    s.Answered (s.pumpMoved l xs a q) s.port
      ⟨if a < xs.length then .sinkPartial else .ok, BitVec.ofNat 32 a,
        ({ l with fl := s.Deep q } : PumpFlight).dataWord, []⟩ := by
  have h := State.respond_answered_of_queues (s := s)
    (u := { (s.pumpOffered l xs a).pumpAsked (l.offered xs a) q with
      cps := (s.pumpMoved l xs a q).cps, flight := .idle })
    (if a < xs.length then .sinkPartial else .ok) (BitVec.ofNat 32 a)
    ({ l with fl := s.Deep q } : PumpFlight).dataWord [] rfl rfl rfl
  simpa [State.pumpMoved, State.pumpFinished, PumpFlight.offered, PumpFlight.dataWord] using h

theorem State.pumpMoved_block :
    (s.pumpMoved l xs a q).block =
      { s.block with
        cps := (s.pumpMoved l xs a q).cps, pend := (s.pumpMoved l xs a q).pend,
        pendLen := (s.pumpMoved l xs a q).pendLen, flight := .idle } := rfl

end

theorem State.rateAdjust_cps_congr {s u : State} (hcfg : u.cfg = s.cfg) (hcps : u.cps = s.cps) (v : Nat) :
    (u.rateAdjust v).cps = (s.rateAdjust v).cps := by
  rw [State.rateAdjust_cps_eq, State.rateAdjust_cps_eq, hcfg, hcps]

theorem State.live_take_min (s : State) (n : Nat) :
    s.live.take (min n s.occupancy) = s.live.take n := by
  rw [State.live_take, State.live_take, min_assoc, min_self]

/-- PUMP's POP_BLOCK in an idle block moves the cursor, uses the transaction, and nothing else. -/
theorem State.pumpPopped_block {s : State} (hs : s.Inv) (hidle : s.flight = .idle) (n : Nat) :
    { (s.pumpPopped n).block with flight := .idle } =
      { s.block with
        rptr := (s.pumpPopped n).rptr, ctR0 := (s.pumpPopped n).ctR0, ctK := (s.pumpPopped n).ctK,
        ctOut := (s.pumpPopped n).ctOut } := by
  simp [State.pumpPopped, State.copied, State.block, hidle, hs.ctActive_of_idle hidle]

theorem State.pumpPopped_live {s : State} (hs : s.Inv) (n : Nat) :
    (s.pumpPopped n).live = s.live.drop n :=
  State.copied_popCommit_live hs n .idle

/-- The state after a whole PUMP with the gate open: the ring's part and then the sink's. -/
def State.pumpWhole (a : Nat) (q : BitVec 32) (s : State) : State :=
  (s.pumpPopped s.cfg.block).pumpMoved (s.openLocals (.offerBlock (s.live.take s.cfg.block)))
    (s.live.take s.cfg.block) a q

theorem actions_pump_whole {s : State} (hs : s.Inv) (hlife : s.life = .playing)
    (henabled : s.enabled = true) (hidle : s.flight = .idle) (hpend : s.pendLen = 0)
    (hocc : s.cfg.pushThreshold < s.occupancy) {a : Nat} {as : List Nat} {q : BitVec 32}
    {qs : List (BitVec 32)} (haccepts : s.sinkAccepts = a :: as)
    (ha : a ≤ (s.live.take s.cfg.block).length) (hdepths : s.sinkDepths = q :: qs) :
    actions .pump
        (min s.cfg.block s.occupancy + 6 + (if s.cfg.sinkFlushDepth.toNat < q.toNat then 1 else 0)) s =
      .next (s.pumpWhole a q) := by
  have hactive : (s.pumpPopped s.cfg.block).life ≠ .destroyed := by
    show s.life ≠ .destroyed
    simp [hlife]
  have hrest := actions_pump_from_offer (s := s.pumpPopped s.cfg.block) rfl hactive rfl rfl haccepts ha
    hdepths
  have hcount : min s.cfg.block s.occupancy + 6 +
      (if s.cfg.sinkFlushDepth.toNat < q.toNat then 1 else 0) =
      min s.cfg.block s.occupancy + 3 +
        (1 + (if s.cfg.sinkFlushDepth.toNat < q.toNat then 1 else 0) + 1 + 1) := by omega
  rw [hcount, actions_add (actions_pump_to_offer hs hlife henabled hidle hpend hocc)]
  exact hrest

theorem State.pumpWhole_live {s : State} (hs : s.Inv) (a : Nat) (q : BitVec 32) :
    (s.pumpWhole a q).live = s.live.drop s.cfg.block :=
  (State.pumpMoved_live _ _ _ _ _).trans (State.pumpPopped_live hs _)

theorem State.pumpWhole_pending {s : State} (hs : s.Inv) (a : Nat) (q : BitVec 32) :
    (s.pumpWhole a q).pending = (s.live.take s.cfg.block).drop a := by
  have hbounds := Config.bounds_of_legal hs.legal
  exact State.pumpMoved_pending _ _ _ _ _ (by simp; omega)

theorem State.pumpWhole_sinkCalls (a : Nat) (q : BitVec 32) (s : State) :
    (s.pumpWhole a q).sinkCalls =
      s.sinkCalls ++ [.enqueue (s.live.take s.cfg.block) a, .queuedDepth q] ++
        (if s.cfg.sinkFlushDepth.toNat < q.toNat then [.flush] else []) :=
  State.pumpMoved_sinkCalls _ _ _ _ _

theorem State.pumpWhole_cps (a : Nat) (q : BitVec 32) (s : State) :
    (s.pumpWhole a q).cps = (s.rateAdjust (rateReading s.cfg (BitVec.ofNat 32 s.occupancy) q)).cps := by
  have hcfg : (s.pumpPopped s.cfg.block).cfg = s.cfg := rfl
  have hcps : (s.pumpPopped s.cfg.block).cps = s.cps := rfl
  rw [State.pumpWhole, State.pumpMoved_cps, State.rateAdjust_cps_congr hcfg hcps, hcfg]
  rfl

theorem State.pumpWhole_answers (a : Nat) (q : BitVec 32) (s : State) :
    (s.pumpWhole a q).sinkAccepts = s.sinkAccepts.tail ∧
      (s.pumpWhole a q).sinkDepths = s.sinkDepths.tail :=
  State.pumpMoved_answers _ _ _ _ (s.pumpPopped s.cfg.block)

theorem State.pumpWhole_answered (a : Nat) (q : BitVec 32) (s : State) :
    s.Answered (s.pumpWhole a q) s.port
      ⟨if a < (s.live.take s.cfg.block).length then .sinkPartial else .ok, BitVec.ofNat 32 a,
        ({ s.openLocals (.offerBlock (s.live.take s.cfg.block)) with fl := s.Deep q } :
          PumpFlight).dataWord, []⟩ :=
  State.pumpMoved_answered _ _ _ _ (s.pumpPopped s.cfg.block)

theorem State.pumpWhole_block {s : State} (hs : s.Inv) (hidle : s.flight = .idle) (a : Nat)
    (q : BitVec 32) :
    (s.pumpWhole a q).block =
      { s.block with
        rptr := (s.pumpWhole a q).rptr, cps := (s.pumpWhole a q).cps, pend := (s.pumpWhole a q).pend,
        pendLen := (s.pumpWhole a q).pendLen, ctR0 := (s.pumpWhole a q).ctR0,
        ctK := (s.pumpWhole a q).ctK, ctOut := (s.pumpWhole a q).ctOut } := by
  have hblock := State.pumpPopped_block hs hidle s.cfg.block
  have hmoved := State.pumpMoved_block (s.openLocals (.offerBlock (s.live.take s.cfg.block)))
    (s.live.take s.cfg.block) a q (s.pumpPopped s.cfg.block)
  exact hmoved.trans (congrArg (fun b : State =>
    { b with
      cps := (s.pumpWhole a q).cps, pend := (s.pumpWhole a q).pend,
      pendLen := (s.pumpWhole a q).pendLen }) hblock)

/-- Settles O46: each part of the outcome is a law of the whole run, with `k` for the samples popped. -/
theorem uninterruptedPumpMovesABlock : Obligations.UninterruptedPumpMovesABlock := by
  intro s k a v as q qs hs hlife henabled hidle hpend hocc hk ha haccepts hdepths hv
  have hlen : (s.live.take s.cfg.block).length = k := by simp [hk]
  have hread : rateReading s.cfg (BitVec.ofNat 32 s.occupancy) q = v := by
    have hocc' := hs.occupancy_toNat
    rw [hv, rateReading]
    cases s.cfg.rateSource with
    | ring => exact hocc'
    | sink => rfl
  have hrun := actions_pump_whole hs hlife henabled hidle hpend hocc haccepts (hlen ▸ ha) hdepths
  have hcps := s.pumpWhole_cps a q
  have hans := s.pumpWhole_answered a q
  obtain ⟨haccepts', hdepths'⟩ := s.pumpWhole_answers a q
  have htake : s.live.take k = s.live.take s.cfg.block := by rw [hk, s.live_take_min]
  have hdrop : s.live.drop k = s.live.drop s.cfg.block := by rw [hk, s.live_drop_min]
  rw [← hk] at hrun
  rw [hread] at hcps
  rw [hlen] at hans
  rw [htake, hdrop]
  refine ⟨_, _, hrun, State.pumpWhole_live hs a q, State.pumpWhole_pending hs a q,
    s.pumpWhole_sinkCalls a q, fun h => ?_, fun h => ?_, fun h h' => ?_, hans, ?_, ?_, ?_,
    State.pumpWhole_block hs hidle a q⟩
  · rw [hcps, State.rateAdjust_down hs h]
  · rw [hcps, State.rateAdjust_up hs h]
  · rw [hcps, State.rateAdjust_within h h']
  · rw [PumpFlight.dataWord_toNat]
    simp only [State.openLocals, hs.occupancy_toNat, State.Deep, decide_eq_true_eq, if_true]
  · rw [haccepts', haccepts, List.tail_cons]
  · rw [hdepths', hdepths, List.tail_cons]

end Sys2Proof.Machine

/-! PROOFS. 44_playback_control.md: the lifecycle, configuration and diagnostic commands of port H, and the
byte order of 20_memory.md R70. -/

namespace Sys2Proof.Machine

/-! ### Lifecycle commands (R251 to R257) -/

theorem exec_initializeBlock_of_open {s : State} (hlife : s.life = .uninit) (hopen : s.nextOpen = true) :
    exec .initializeBlock s = .next (s.sinkOpen.setDefaults.respond .ok 0 0 []) := by
  show execInitialize s = _
  rw [execInitialize, if_pos hlife, if_pos hopen]
  rfl

theorem exec_initializeBlock_of_fail {s : State} (hlife : s.life = .uninit) (hopen : s.nextOpen = false) :
    exec .initializeBlock s = .next (s.sinkOpen.respond .sinkOpenFail 0 0 []) := by
  show execInitialize s = _
  rw [execInitialize, if_pos hlife, hopen]
  rfl

theorem exec_initializeBlock_inert {s : State} (hlife : s.life ≠ .uninit) :
    exec .initializeBlock s = .next (s.respond .inert 0 0 []) :=
  congrArg Host.Outcome.next (if_neg hlife)

theorem State.nextOpen_of_listed {s : State} {ok : Bool} {rest : List Bool}
    (h : s.sinkOpens = ok :: rest) : s.nextOpen = ok := by
  rw [State.nextOpen, h]

/-- `Open` records the listed answer and takes it off the list (43_output_pump.md R230). -/
theorem State.sinkOpen_of_listed {s : State} {ok : Bool} {rest : List Bool} (h : s.sinkOpens = ok :: rest) :
    s.sinkOpen.sinkCalls = s.sinkCalls ++ [.openSink s.cfg.sampleRate 1 .binary32 ok] ∧
      s.sinkOpen.sinkOpens = rest := by
  rw [State.sinkOpen_sinkCalls, State.sinkOpen_sinkOpens, State.nextOpen_of_listed h, h]
  exact ⟨rfl, rfl⟩

/-- Settles O49. -/
theorem initializeSetsTheDefaults : Obligations.InitializeSetsTheDefaults := by
  intro s rest hlife hlisted hl
  obtain ⟨hcalls, hrest⟩ := State.sinkOpen_of_listed hlisted
  exact ⟨_, exec_initializeBlock_of_open hlife (State.nextOpen_of_listed hlisted),
    State.respond_answered_of_queues _ _ _ _ rfl rfl rfl, hcalls, hrest, cpsNominal_toNat hl, rfl⟩

/-- Settles O50. -/
theorem initializeFailsWithoutAnEffect : Obligations.InitializeFailsWithoutAnEffect := by
  refine ⟨fun s rest hlife hlisted => ?_, fun s hlife => ?_⟩
  · obtain ⟨hcalls, hrest⟩ := State.sinkOpen_of_listed hlisted
    exact ⟨_, exec_initializeBlock_of_fail hlife (State.nextOpen_of_listed hlisted),
      State.respond_answered_of_queues _ _ _ _ rfl rfl rfl, hcalls, hrest, rfl⟩
  · exact ⟨_, exec_initializeBlock_inert hlife, s.respond_answered _ _ _ _, rfl, rfl⟩

/-- Settles O51. -/
theorem beginAndStopPlaySetLife : Obligations.BeginAndStopPlaySetLife := by
  intro s hlife
  have hactive : ¬ s.life.inert = true := by
    rw [Life.inert_eq_false_iff.mpr hlife]
    exact Bool.false_ne_true
  exact ⟨⟨_, congrArg Host.Outcome.next (if_neg hactive),
      State.respond_answered_of_queues _ _ _ _ rfl rfl rfl, rfl, rfl⟩,
    ⟨_, congrArg Host.Outcome.next (if_neg hactive),
      State.respond_answered_of_queues _ _ _ _ rfl rfl rfl, rfl, rfl⟩⟩

/-- Settles O52. -/
theorem enableAndDisableSetTheMute : Obligations.EnableAndDisableSetTheMute := by
  intro s hlife
  exact ⟨⟨_, congrArg Host.Outcome.next (if_neg hlife),
      State.respond_answered_of_queues _ _ _ _ rfl rfl rfl, rfl, rfl⟩,
    ⟨_, congrArg Host.Outcome.next (if_neg hlife),
      State.respond_answered_of_queues _ _ _ _ rfl rfl rfl, rfl, rfl⟩⟩

theorem flagWord_eq (b : Bool) : flagWord 64 b = if b = true then 1 else 0 := by
  cases b <;> rfl

/-- Settles O53. -/
theorem isPlayingIgnoresTheMute : Obligations.IsPlayingIgnoresTheMute := by
  intro s
  refine ⟨_, rfl, ?_, rfl, rfl⟩
  simpa only [State.respondOk_eq, flagWord_eq, decide_eq_true_eq] using
    s.respond_answered .ok 0 (flagWord 64 (s.life = .playing)) []

/-- DESTROY, state by state (R257). -/
theorem exec_destroy_unopened {s : State} (hlife : s.life = .uninit) :
    exec .destroy s = .next ({ s with life := .destroyed }.respond .ok 0 0 []) := by
  show execDestroy s = _
  rw [execDestroy, hlife]
  rfl

theorem exec_destroy_open {s : State} (hlife : s.life.inert = false) :
    exec .destroy s = .next ({ s.callSink .close with life := .destroyed }.respond .ok 0 0 []) := by
  show execDestroy s = _
  rcases Life.inert_eq_false_iff.mp hlife with h | h <;>
  · rw [execDestroy, h]
    rfl

/-- Settles O58. -/
theorem destroyClosesAnOpenSink : Obligations.DestroyClosesAnOpenSink := by
  intro s hlife
  by_cases huninit : s.life = .uninit
  · exact ⟨_, exec_destroy_unopened huninit, State.respond_answered_of_queues _ _ _ _ rfl rfl rfl,
      by simp [huninit], rfl⟩
  · exact ⟨_, exec_destroy_open (Life.active_of_ne huninit hlife),
      State.respond_answered_of_queues _ _ _ _ rfl rfl rfl,
      by simp [huninit], rfl⟩

/-! ### The configuration record (R258 to R261, R343) -/

theorem State.record_toNat (s : State) :
    s.record.toNat = s.cps.toNat + (if s.enabled then 2 ^ 32 else 0) := by
  rw [State.record, toNat_append_eq, toNat_append_eq]
  cases s.enabled <;> simp
  omega

/-- The two fields of the record, read back (R258). -/
theorem State.record_enabled (s : State) : s.record.getLsbD 32 = s.enabled := by
  show ((0#31 ++ BitVec.ofBool s.enabled ++ s.cps : BitVec (31 + 1 + 32))).getLsbD 32 = _
  rw [BitVec.getLsbD_append, BitVec.getLsbD_append]
  simp

theorem State.record_cps (s : State) : s.record.extractLsb' 0 32 = s.cps := by
  apply BitVec.eq_of_getLsbD_eq
  intro i hi
  show ((0#31 ++ BitVec.ofBool s.enabled ++ s.cps : BitVec (31 + 1 + 32)).extractLsb' 0 32).getLsbD i = _
  rw [BitVec.getLsbD_extractLsb', Nat.zero_add, BitVec.getLsbD_append]
  simp [hi]

theorem exec_exportRecord {s : State} (hlife : s.life ≠ .destroyed) :
    exec .exportRecord s = .next (s.respond .ok 0 s.record []) :=
  congrArg Host.Outcome.next (if_neg hlife)

theorem exec_importRecord {s : State} (ev en cv : Bool) (cps : BitVec 32) (hlife : s.life ≠ .destroyed) :
    exec (.importRecord ev en cv cps) s =
      .next ((s.importFields ev en cv cps).respond .ok 0 (s.importFields ev en cv cps).record []) :=
  congrArg Host.Outcome.next (if_neg hlife)

/-- The cycles-per-sample field as IMPORT loads it (R260, R202). -/
theorem State.importFields_cps_toNat {s : State} (hl : s.cfg.Legal) (ev en cv : Bool) (cps : BitVec 32) :
    (s.importFields ev en cv cps).cps.toNat =
      if cv then min (max cps.toNat s.cfg.cpsMin) s.cfg.cpsMax else s.cfg.cpsNominal := by
  rw [State.importFields_cps]
  split
  · have hclamp := clampCps_toNat hl (cps.toNat : Int)
    omega
  · exact cpsNominal_toNat hl

/-- Settles O54. -/
theorem exportAnswersTheRecord : Obligations.ExportAnswersTheRecord :=
  fun s hlife =>
    ⟨_, s.record, exec_exportRecord hlife, s.respond_answered _ _ _ _, s.record_toNat, rfl, rfl⟩

/-- Settles O55. -/
theorem importLoadsFieldByField : Obligations.ImportLoadsFieldByField := by
  intro ev en cv imm s hl hlife
  exact ⟨_, (s.importFields ev en cv imm).record, exec_importRecord ev en cv imm hlife, rfl,
    State.importFields_cps_toNat hl ev en cv imm, State.respond_answered_of_queues _ _ _ _ rfl rfl rfl,
    State.record_toNat _, rfl, rfl⟩

/-- A `CPS` within its range is imported as it is. -/
theorem State.importFields_cps_of_range {s : State} (hl : s.cfg.Legal) (ev en : Bool) {cps : BitVec 32}
    (hcps : s.cfg.cpsMin ≤ cps.toNat ∧ cps.toNat ≤ s.cfg.cpsMax) :
    (s.importFields ev en true cps).cps = cps := by
  apply BitVec.eq_of_toNat_eq
  rw [State.importFields_cps_toNat hl, if_pos rfl]
  omega

/-- The record tells `ENABLED` and `CPS` alone. -/
theorem State.record_congr {s u : State} (henabled : u.enabled = s.enabled) (hcps : u.cps = s.cps) :
    u.record = s.record := by
  rw [State.record, State.record, henabled, hcps]

/-- Settles O56: `CPS` is within its range in the exporting block, so the clamp of IMPORT keeps it. -/
theorem exportThenImportRoundTrips : Obligations.ExportThenImportRoundTrips := by
  intro a b ha hcfg hla hlb
  obtain ⟨t, himport, henabled, hcps, hlt⟩ : ∃ t, exec (.importRecord true a.enabled true a.cps) b = .next t ∧
      t.enabled = a.enabled ∧ t.cps = a.cps ∧ t.life ≠ .destroyed :=
    ⟨_, exec_importRecord true a.enabled true a.cps hlb, rfl,
      State.importFields_cps_of_range (hcfg ▸ ha.legal) true a.enabled (hcfg ▸ ha.cps_range), hlb⟩
  have hexport := exec_exportRecord hlt
  rw [State.record_congr henabled hcps] at hexport
  refine ⟨_, a.record, t, _, exec_exportRecord hla, a.respond_answered _ _ _ _, ?_, henabled, hcps, ?_, ?_,
    hexport, t.respond_answered _ _ _ _⟩
  · rw [a.record_enabled, a.record_cps]
    exact himport
  · rw [a.record_enabled, henabled]
  · rw [a.record_cps, hcps]

/-- Settles O57: IMPORT leaves UNINIT and the sink's answers as they are, and INITIALIZE writes both
fields. -/
theorem importBeforeInitializeIsLost : Obligations.ImportBeforeInitializeIsLost := by
  intro ev en cv imm s rest hlife hlisted hl
  exact ⟨_, _, exec_importRecord ev en cv imm (by simp [hlife]),
    exec_initializeBlock_of_open hlife (State.nextOpen_of_listed hlisted), rfl, rfl, cpsNominal_toNat hl⟩

/-! ### READ_REG (R262, 10_state.md R33, R34) -/

theorem exec_readReg_assigned {r : BitVec 32} {n : RegName} (s : State) (h : regOfNumber r = some n) :
    exec (.readReg r) s = .next (s.respond .ok 0 (s.readRegister n) []) := by
  show execReadReg r s = _
  rw [execReadReg, h]
  rfl

theorem exec_readReg_unassigned {r : BitVec 32} (s : State) (h : regOfNumber r = none) :
    exec (.readReg r) s = .next (s.respond .illegal 0 0 []) := by
  show execReadReg r s = _
  rw [execReadReg, h]
  rfl

/-- A number that names a register is that register's number. -/
theorem number_of_regOfNumber {r : BitVec 32} {n : RegName} (h : regOfNumber r = some n) :
    n.number = r := by
  unfold regOfNumber at h
  split at h <;> cases h <;> rfl

/-- The assigned numbers are 0x00 to 0x07 and 0x10 to 0x1E (10_state.md R33). -/
theorem number_range (n : RegName) :
    n.number.toNat < 8 ∨ (0x10 ≤ n.number.toNat ∧ n.number.toNat < 0x1F) := by
  cases n <;> decide

theorem regOfNumber_isSome_of_range {r : BitVec 32}
    (h : r.toNat < 8 ∨ (0x10 ≤ r.toNat ∧ r.toNat < 0x1F)) : (regOfNumber r).isSome := by
  have hall : ∀ k < 0x1F, (k < 8 ∨ 0x10 ≤ k) → (regOfNumber (BitVec.ofNat 32 k)).isSome := by decide
  have hr := hall r.toNat (by omega) (by omega)
  rwa [BitVec.ofNat_toNat, BitVec.setWidth_eq] at hr

theorem toNat_zext (x : BitVec 32) : (x.setWidth 64).toNat = x.toNat := by
  have hx := x.isLt
  rw [BitVec.toNat_setWidth, Nat.mod_eq_of_lt (by omega)]

theorem toNat_ofNat_64 {n : Nat} (h : n ≤ 4294967296) : (BitVec.ofNat 64 n).toNat = n := by
  rw [BitVec.toNat_ofNat, Nat.mod_eq_of_lt (by omega)]

/-- STATUS as a number (R34). -/
theorem State.statusWord_toNat (s : State) :
    s.statusWord.toNat =
      s.life.code.toNat + (if s.enabled then 4 else 0) + (if s.high then 8 else 0) := by
  rw [State.statusWord, toNat_append_eq, toNat_append_eq, toNat_append_eq]
  cases s.enabled <;> cases s.high <;> simp <;> omega

/-- Settles O59: a number names one register or none, and every register's value fits 64 bits. -/
theorem readRegAnswersTheRegister : Obligations.ReadRegAnswersTheRegister := by
  intro r s hs
  have hbounds := Config.bounds_of_legal hs.legal
  cases hreg : regOfNumber r with
  | none =>
    refine ⟨_, exec_readReg_unassigned s hreg, rfl, rfl, fun _ => s.respond_answered _ _ _ _,
      fun hr => ?_⟩
    have hsome := regOfNumber_isSome_of_range hr
    rw [hreg] at hsome
    cases hsome
  | some n =>
    have hrange := number_range n
    rw [number_of_regOfNumber hreg] at hrange
    have hn {c : BitVec 32} {m : RegName} (hr : r = c) (hm : regOfNumber c = some m) : n = m :=
      Option.some.inj (hreg.symm.trans (hr ▸ hm))
    refine ⟨_, exec_readReg_assigned s hreg, rfl, rfl, fun hr => by omega,
      fun _ => ⟨s.readRegister n, s.respond_answered _ _ _ _, fun hr => ?_,
        fun hr => hn hr rfl ▸ toNat_zext s.cps,
        fun hr => hn hr rfl ▸ rfl,
        fun hr => hn hr rfl ▸ rfl,
        fun hr => hn hr rfl ▸ toNat_zext s.wptr,
        fun hr => hn hr rfl ▸ toNat_zext s.rptr,
        fun hr => hn hr rfl ▸ toNat_zext s.drops,
        fun hr => hn hr rfl ▸ toNat_zext s.pendLen,
        fun hr => hn hr rfl ▸ toNat_ofNat_64 (n := s.cfg.fracBits) (by omega),
        fun hr => hn hr rfl ▸ toNat_ofNat_64 (n := s.cfg.capacity) (by omega),
        fun hr => hn hr rfl ▸ toNat_ofNat_64 (n := s.cfg.block) (by omega),
        fun hr => hn hr rfl ▸ toNat_ofNat_64 (n := s.cfg.dropHwm) (by omega),
        fun hr => hn hr rfl ▸ toNat_ofNat_64 (n := s.cfg.pushThreshold) (by omega),
        fun hr => hn hr rfl ▸ rfl,
        fun hr => hn hr rfl ▸ toNat_ofNat_64 (n := s.cfg.cpsNominal) (by omega),
        fun hr => hn hr rfl ▸ toNat_ofNat_64 (n := s.cfg.cpsMin) (by omega),
        fun hr => hn hr rfl ▸ toNat_ofNat_64 (n := s.cfg.cpsMax) (by omega),
        fun hr => hn hr rfl ▸ toNat_ofNat_64 (n := s.cfg.cpsStep) (by omega),
        fun hr => hn hr rfl ▸ toNat_ofNat_64 (n := s.cfg.rateLwm) (by omega),
        fun hr => hn hr rfl ▸ toNat_ofNat_64 (n := s.cfg.rateHwm) (by omega),
        fun hr => ?_,
        fun hr => hn hr rfl ▸ rfl,
        fun hr => hn hr rfl ▸ flagWord_eq s.cfg.enabledDefault⟩⟩
    · rw [hn hr rfl]
      refine s.statusWord_toNat.trans ?_
      cases s.life <;> rfl
    · rw [hn hr rfl]
      show rateSourceWord s.cfg.rateSource = _
      cases s.cfg.rateSource <;> rfl

/-! ### The bytes of a sample (20_memory.md R70) -/

/-- Settles O60: each byte is the sample divided by a power of 256, so they sum up to it. -/
theorem samplesGoOutLittleEndian : Obligations.SamplesGoOutLittleEndian := by
  refine ⟨fun x => ⟨_, _, _, _, rfl, ?_⟩, fun xs a => rfl⟩
  have hx := x.isLt
  simp only [BitVec.extractLsb'_toNat, Nat.shiftRight_eq_div_pow]
  omega

end Sys2Proof.Machine

/-! PROOFS. 40_sample_clock.md R134: the amplitude and its binary32 word. The significand of a word is the
amplitude scaled to `[2^23, 2^24)` and rounded to a whole number, so it is off by at most a half; the scale is
at most `2^-24`, because only the amplitude 1 reaches the exponent of 1, and that one is exact. -/

namespace Sys2Proof.Machine

/-! ### Rounding to a whole number -/

/-- A rounded quotient is within a half of it. -/
theorem roundHalfEven_near (n : Nat) {d : Nat} (hd : 0 < d) :
    2 * n ≤ 2 * (roundHalfEven n d * d) + d ∧ 2 * (roundHalfEven n d * d) ≤ 2 * n + d := by
  have hdiv := Nat.div_add_mod' n d
  have hmod := Nat.mod_lt n hd
  unfold roundHalfEven
  split
  · rw [Nat.add_mul]
    omega
  · omega

theorem le_roundHalfEven (n d : Nat) : n / d ≤ roundHalfEven n d := by
  unfold roundHalfEven
  split <;> omega

theorem roundHalfEven_le (n d : Nat) : roundHalfEven n d ≤ n / d + 1 := by
  unfold roundHalfEven
  split <;> omega

/-- A whole quotient is not moved. -/
theorem roundHalfEven_mul (k : Nat) {d : Nat} (hd : 0 < d) : roundHalfEven (k * d) d = k := by
  rw [roundHalfEven, Nat.mul_mod_left, Nat.mul_div_cancel _ hd, if_neg (by omega)]

/-! ### The scale of a positive fraction -/

section
variable {a d : Nat}

/-- `exponentDrop` scales `a / d` into `[1, 2)`. -/
theorem exponentDrop_scales (ha : 0 < a) (hd : 0 < d) :
    d * 2 ^ a.log2 ≤ a * 2 ^ exponentDrop a d ∧ a * 2 ^ exponentDrop a d < 2 * (d * 2 ^ a.log2) := by
  have ha1 := Nat.log2_self_le ha.ne'
  have ha2 := Nat.lt_log2_self (n := a)
  have hd1 := Nat.log2_self_le hd.ne'
  have hd2 := Nat.lt_log2_self (n := d)
  have hlow : a * 2 ^ d.log2 < 2 * (d * 2 ^ a.log2) := by
    calc a * 2 ^ d.log2 < 2 ^ (a.log2 + 1) * 2 ^ d.log2 := Nat.mul_lt_mul_of_pos_right ha2 (by positivity)
      _ ≤ 2 ^ (a.log2 + 1) * d := Nat.mul_le_mul_left _ hd1
      _ = 2 * (d * 2 ^ a.log2) := by ring
  have hhigh : d * 2 ^ a.log2 ≤ a * 2 ^ (d.log2 + 1) := by
    calc d * 2 ^ a.log2 ≤ 2 ^ (d.log2 + 1) * 2 ^ a.log2 := Nat.mul_le_mul_right _ hd2.le
      _ ≤ 2 ^ (d.log2 + 1) * a := Nat.mul_le_mul_left _ ha1
      _ = a * 2 ^ (d.log2 + 1) := Nat.mul_comm _ _
  unfold exponentDrop
  split
  case isTrue h => exact ⟨h, hlow⟩
  case isFalse h =>
    refine ⟨hhigh, ?_⟩
    rw [Nat.pow_succ, ← Nat.mul_assoc]
    omega

/-- The exponent of a fraction up to 1 is not positive. -/
theorem log2_le_exponentDrop (ha : 0 < a) (had : a ≤ d) : a.log2 ≤ exponentDrop a d := by
  obtain ⟨hscale, -⟩ := exponentDrop_scales ha (ha.trans_le had)
  by_contra hlt
  have hpow : 2 ^ exponentDrop a d < 2 ^ a.log2 := Nat.pow_lt_pow_right (by omega) (by omega)
  have hless : a * 2 ^ exponentDrop a d < d * 2 ^ a.log2 :=
    calc a * 2 ^ exponentDrop a d < a * 2 ^ a.log2 := Nat.mul_lt_mul_of_pos_left hpow ha
      _ ≤ d * 2 ^ a.log2 := Nat.mul_le_mul_right _ had
  omega

/-- Of the fractions up to 1, only 1 itself has the exponent 0. -/
theorem eq_of_log2_eq_exponentDrop (ha : 0 < a) (had : a ≤ d) (h : a.log2 = exponentDrop a d) : a = d := by
  obtain ⟨hscale, -⟩ := exponentDrop_scales ha (ha.trans_le had)
  rw [← h] at hscale
  exact le_antisymm had (Nat.le_of_mul_le_mul_right hscale (by positivity))

theorem exponentDrop_le (hd : d < 2 ^ 34) : exponentDrop a d ≤ 34 := by
  have hlog : d.log2 ≤ 33 := by
    rcases Nat.eq_zero_or_pos d with rfl | hpos
    · simp
    · exact Nat.lt_succ_iff.mp ((Nat.log2_lt hpos.ne').mpr hd)
  unfold exponentDrop
  split <;> omega

/-! ### The significand -/

/-- The 24-bit significand of `a / d`. -/
def significand (a d : Nat) : Nat :=
  roundHalfEven (a * 2 ^ (23 + exponentDrop a d)) (d * 2 ^ a.log2)

theorem binary32Bits_eq (a d : Nat) :
    binary32Bits a d = (126 + a.log2 - exponentDrop a d) * 2 ^ 23 + significand a d := rfl

/-- It has its leading 1 in place, or has just been rounded up to the next power of 2. -/
theorem significand_range (ha : 0 < a) (hd : 0 < d) :
    2 ^ 23 ≤ significand a d ∧ significand a d ≤ 2 ^ 24 := by
  obtain ⟨hlow, hhigh⟩ := exponentDrop_scales ha hd
  have hpos : 0 < d * 2 ^ a.log2 := by positivity
  have hshift : a * 2 ^ (23 + exponentDrop a d) = 2 ^ 23 * (a * 2 ^ exponentDrop a d) := by ring
  constructor
  · refine le_trans ?_ (le_roundHalfEven _ _)
    rw [Nat.le_div_iff_mul_le hpos, hshift]
    exact Nat.mul_le_mul_left _ hlow
  · refine (roundHalfEven_le _ _).trans (Nat.succ_le_of_lt ?_)
    rw [Nat.div_lt_iff_lt_mul hpos, hshift]
    omega

/-- The value that an exponent and a significand stand for. -/
def wordValue (E R : Nat) : Rat := (R : Rat) * 2 ^ (E + 1) / 2 ^ 150

/-- What the word of `a / d` stands for, with the scale written out. -/
theorem wordValue_significand (hd : d < 2 ^ 34) :
    wordValue (126 + a.log2 - exponentDrop a d) (significand a d) =
      significand a d * (2 ^ a.log2 / 2 ^ (23 + exponentDrop a d)) := by
  have hdrop := exponentDrop_le (a := a) hd
  have hpow : (2 : Rat) ^ (126 + a.log2 - exponentDrop a d + 1) * 2 ^ (23 + exponentDrop a d) =
      2 ^ a.log2 * 2 ^ 150 := by
    rw [← pow_add, ← pow_add]
    congr 1
    omega
  rw [wordValue, mul_div_assoc]
  congr 1
  rw [div_eq_div_iff (by positivity) (by positivity)]
  exact hpow

/-- `a / d` with the same scale. -/
theorem fraction_scaled (hd : 0 < d) :
    (a : Rat) / d = ((a * 2 ^ (23 + exponentDrop a d) : Nat) : Rat) / ((d * 2 ^ a.log2 : Nat) : Rat) *
      (2 ^ a.log2 / 2 ^ (23 + exponentDrop a d)) := by
  have hd' : (d : Rat) ≠ 0 := by positivity
  push_cast
  field_simp

/-- The significand is within a half of what it rounds. -/
theorem significand_near (hd : 0 < d) :
    |(significand a d : Rat) -
      ((a * 2 ^ (23 + exponentDrop a d) : Nat) : Rat) / ((d * 2 ^ a.log2 : Nat) : Rat)| ≤ 1 / 2 := by
  have hpos : 0 < d * 2 ^ a.log2 := by positivity
  obtain ⟨h1, h2⟩ := roundHalfEven_near (a * 2 ^ (23 + exponentDrop a d)) hpos
  have hpos' : (0 : Rat) < ((d * 2 ^ a.log2 : Nat) : Rat) := by exact_mod_cast hpos
  change _ ≤ 2 * (significand a d * _) + _ at h1
  change 2 * (significand a d * _) ≤ _ at h2
  generalize d * 2 ^ a.log2 = y at *
  generalize a * 2 ^ (23 + exponentDrop a d) = x at *
  have h1' : 2 * (x : Rat) ≤ 2 * (significand a d * y) + y := by exact_mod_cast h1
  have h2' : 2 * ((significand a d : Rat) * y) ≤ 2 * x + y := by exact_mod_cast h2
  have hx : (x : Rat) / y * y = x := div_mul_cancel₀ _ hpos'.ne'
  rw [abs_le]
  constructor <;> nlinarith

/-- The bound of R134 for a fraction up to 1. -/
theorem wordValue_near (ha : 0 < a) (had : a ≤ d) (hd : d < 2 ^ 34) :
    |wordValue (126 + a.log2 - exponentDrop a d) (significand a d) - (a : Rat) / d| ≤ 1 / 2 ^ 25 := by
  have hd0 : 0 < d := ha.trans_le had
  rw [wordValue_significand hd, fraction_scaled hd0, ← sub_mul, abs_mul]
  rcases (log2_le_exponentDrop ha had).eq_or_lt with heq | hlt
  · obtain rfl := eq_of_log2_eq_exponentDrop ha had heq
    have hexact : a * 2 ^ (23 + exponentDrop a a) = 2 ^ 23 * (a * 2 ^ a.log2) := by
      rw [← heq]
      ring
    have hpos : 0 < a * 2 ^ a.log2 := by positivity
    have hpos' : ((a * 2 ^ a.log2 : Nat) : Rat) ≠ 0 := by exact_mod_cast hpos.ne'
    rw [significand, hexact, roundHalfEven_mul _ hpos, Nat.cast_mul (2 ^ 23),
      mul_div_cancel_right₀ _ hpos', sub_self, abs_zero, zero_mul]
    positivity
  · have hscale : |(2 : Rat) ^ a.log2 / 2 ^ (23 + exponentDrop a d)| ≤ 1 / 2 ^ 24 := by
      rw [abs_of_pos (by positivity), div_le_div_iff₀ (by positivity) (by positivity), one_mul, ← pow_add]
      exact pow_le_pow_right₀ (by norm_num) (by omega)
    calc _ ≤ (1 / 2 : Rat) * (1 / 2 ^ 24) :=
          mul_le_mul (significand_near hd0) hscale (abs_nonneg _) (by norm_num)
      _ = 1 / 2 ^ 25 := by norm_num

end

/-! ### The fields of a word -/

/-- A word with sign, exponent and significand. -/
def sampleWord (neg : Bool) (E R : Nat) : Sample :=
  BitVec.ofNat 32 ((if neg then 2 ^ 31 else 0) + (E * 2 ^ 23 + R))

section
variable {neg : Bool} {E R : Nat} (hE : E ≤ 126) (hlow : 2 ^ 23 ≤ R) (hhigh : R ≤ 2 ^ 24)
include hE hlow hhigh

/-- The four readings of a word: not zero, its sign, its exponent, its fraction. -/
theorem sampleWord_fields :
    (sampleWord neg E R).extractLsb' 0 31 ≠ 0 ∧ (sampleWord neg E R).getLsbD 31 = neg ∧
      ((sampleWord neg E R).extractLsb' 23 8).toNat = E + R / 2 ^ 23 ∧
      ((sampleWord neg E R).extractLsb' 0 23).toNat = R % 2 ^ 23 := by
  have hword : (sampleWord neg E R).toNat = (if neg then 2 ^ 31 else 0) + (E * 2 ^ 23 + R) := by
    rw [sampleWord, BitVec.toNat_ofNat, Nat.mod_eq_of_lt]
    split <;> omega
  refine ⟨fun hzero => ?_, ?_, ?_, ?_⟩
  · have hzero' : ((sampleWord neg E R).extractLsb' 0 31).toNat = 0 := by rw [hzero]; rfl
    rw [BitVec.extractLsb'_toNat, hword, Nat.shiftRight_zero] at hzero'
    split at hzero' <;> omega
  · rw [BitVec.getLsbD, hword, Nat.testBit_eq_decide_div_mod_eq]
    cases neg <;> simp <;> omega
  · rw [BitVec.extractLsb'_toNat, hword, Nat.shiftRight_eq_div_pow]
    split <;> omega
  · rw [BitVec.extractLsb'_toNat, hword, Nat.shiftRight_zero]
    split <;> omega

/-- A word stands for its exponent and significand, with its sign. -/
theorem sampleValue_sampleWord :
    sampleValue (sampleWord neg E R) = (if neg then -1 else 1) * wordValue E R := by
  obtain ⟨hnonzero, hsign, hexponent, hfraction⟩ := sampleWord_fields (neg := neg) hE hlow hhigh
  have hvalue : (2 ^ 23 + R % 2 ^ 23) * 2 ^ (E + R / 2 ^ 23) = R * 2 ^ (E + 1) := by
    rcases hhigh.eq_or_lt with rfl | hlt
    · norm_num
      ring
    · rw [show R / 2 ^ 23 = 1 by omega, show 2 ^ 23 + R % 2 ^ 23 = R by omega]
  have hvalue' : ((2 ^ 23 + (R % 2 ^ 23 : Nat)) * 2 ^ (E + R / 2 ^ 23) : Int) =
      (R * 2 ^ (E + 1) : Nat) := by exact_mod_cast hvalue
  rw [sampleValue, if_neg hnonzero, hsign, hexponent, hfraction, hvalue', Rat.mkRat_eq_div, wordValue]
  push_cast
  rfl

theorem sampleWord_exponent_normal :
    1 ≤ ((sampleWord neg E R).extractLsb' 23 8).toNat ∧
      ((sampleWord neg E R).extractLsb' 23 8).toNat ≤ 254 := by
  rw [(sampleWord_fields (neg := neg) hE hlow hhigh).2.2.1]
  omega

end

/-! ### The word of an amplitude -/

/-- The word of a nonzero rational is that of its size with its sign (R134). -/
theorem toSample_eq_sampleWord {q : Rat} (hq : q.num ≠ 0) :
    toSample q = sampleWord (q.num < 0)
      (126 + q.num.natAbs.log2 - exponentDrop q.num.natAbs q.den) (significand q.num.natAbs q.den) := by
  rw [toSample, if_neg hq, binary32Bits_eq, sampleWord]
  by_cases hneg : q.num < 0 <;> simp [hneg]

/-- A rational is its size with its sign. -/
theorem rat_eq_sign_mul (q : Rat) :
    q = (if q.num < 0 then -1 else 1) * ((q.num.natAbs : Rat) / q.den) := by
  conv_lhs => rw [← Rat.num_div_den q]
  split
  case isTrue h =>
    rw [Nat.cast_natAbs, abs_of_neg h]
    push_cast
    ring
  case isFalse h => rw [Nat.cast_natAbs, abs_of_nonneg (not_lt.mp h), one_mul]

theorem amplitude_range {h e : Nat} (hhe : h ≤ e) (he : 0 < e) :
    -1 ≤ amplitude h e ∧ amplitude h e ≤ 1 := by
  have hpos : (0 : Rat) < e := by exact_mod_cast he
  have hle : (h : Rat) ≤ e := by exact_mod_cast hhe
  have hnonneg : (0 : Rat) ≤ h := Nat.cast_nonneg h
  rw [amplitude_eq, le_div_iff₀ hpos, div_le_iff₀ hpos]
  constructor <;> linarith

theorem amplitude_den_le {h e : Nat} (he : 0 < e) : (amplitude h e).den ≤ e := by
  have hdvd := Rat.den_dvd (2 * (h : Int) - e) e
  rw [← Rat.mkRat_eq_divInt] at hdvd
  exact Nat.le_of_dvd he (Int.natCast_dvd_natCast.mp hdvd)

/-- A rational in `[-1, +1]` has a numerator no larger than its denominator. -/
theorem natAbs_num_le_den {q : Rat} (h : -1 ≤ q ∧ q ≤ 1) : q.num.natAbs ≤ q.den := by
  have hpos : (0 : Rat) < q.den := by exact_mod_cast q.den_pos
  obtain ⟨hlow, hhigh⟩ := h
  rw [← Rat.num_div_den q, le_div_iff₀ hpos] at hlow
  rw [← Rat.num_div_den q, div_le_iff₀ hpos] at hhigh
  have hlow' : -(q.den : Int) ≤ q.num := by exact_mod_cast (by linarith : -(q.den : Rat) ≤ q.num)
  have hhigh' : q.num ≤ (q.den : Int) := by exact_mod_cast (by linarith : (q.num : Rat) ≤ q.den)
  omega

/-- What R134 asks of a nonzero amplitude, in the numbers of its fraction. -/
theorem amplitude_fraction {h e : Nat} (hhe : h ≤ e) (he : 0 < e) (hlt : e < 2 ^ 34)
    (hne : (amplitude h e).num ≠ 0) :
    0 < (amplitude h e).num.natAbs ∧ (amplitude h e).num.natAbs ≤ (amplitude h e).den ∧
      (amplitude h e).den < 2 ^ 34 :=
  ⟨Int.natAbs_pos.mpr hne, natAbs_num_le_den (amplitude_range hhe he),
    (amplitude_den_le he).trans_lt hlt⟩

/-- The word of a rational in `[-1, +1]` stands for its rounded size with its sign. -/
theorem sampleValue_toSample_near {q : Rat} (hne : q.num ≠ 0) (had : q.num.natAbs ≤ q.den)
    (hd : q.den < 2 ^ 34) : |sampleValue (toSample q) - q| ≤ 1 / 2 ^ 25 := by
  have ha : 0 < q.num.natAbs := Int.natAbs_pos.mpr hne
  obtain ⟨hR, hR'⟩ := significand_range ha (ha.trans_le had)
  have hE := log2_le_exponentDrop ha had
  have hword : sampleValue (toSample q) = (if q.num < 0 then -1 else 1) *
      wordValue (126 + q.num.natAbs.log2 - exponentDrop q.num.natAbs q.den)
        (significand q.num.natAbs q.den) := by
    rw [toSample_eq_sampleWord hne, sampleValue_sampleWord (by omega) hR hR']
    simp only [decide_eq_true_eq]
  have hsign : |(if q.num < 0 then -1 else 1 : Rat)| = 1 := by split <;> simp
  calc |sampleValue (toSample q) - q|
      = |(if q.num < 0 then -1 else 1 : Rat) *
          (wordValue (126 + q.num.natAbs.log2 - exponentDrop q.num.natAbs q.den)
            (significand q.num.natAbs q.den) - (q.num.natAbs : Rat) / q.den)| := by
        rw [mul_sub, ← rat_eq_sign_mul, hword]
    _ ≤ 1 / 2 ^ 25 := by
        rw [abs_mul, hsign, one_mul]
        exact wordValue_near ha had hd

/-- Settles O30: 0 has its own word, and every other amplitude is a fraction in `[-1, +1]`. -/
theorem sampleIsWithinTheRoundingBound : Obligations.SampleIsWithinTheRoundingBound := by
  intro h e hhe he hlt
  obtain ⟨hlow, hhigh⟩ := amplitude_range hhe he
  refine ⟨hlow, hhigh, ?_⟩
  by_cases hzero : (amplitude h e).num = 0
  · have hword : sampleValue (toSample 0) = 0 := by decide
    rw [Rat.num_eq_zero.mp hzero, hword, sub_zero, abs_zero]
    positivity
  · obtain ⟨-, had, hd⟩ := amplitude_fraction hhe he hlt hzero
    exact sampleValue_toSample_near hzero had hd

/-- Settles O31: the exponent of a word is that of an amplitude between `2^-34` and 1. -/
theorem samplesAreZeroOrNormal : Obligations.SamplesAreZeroOrNormal := by
  refine ⟨by decide, by decide, by decide, fun h e hhe he hlt hne => ?_⟩
  have hzero : (amplitude h e).num ≠ 0 := mt Rat.num_eq_zero.mp hne
  obtain ⟨ha, had, -⟩ := amplitude_fraction hhe he hlt hzero
  obtain ⟨hR, hR'⟩ := significand_range ha (ha.trans_le had)
  have hE := log2_le_exponentDrop ha had
  rw [toSample_eq_sampleWord hzero]
  exact sampleWord_exponent_normal (by omega) hR hR'

end Sys2Proof.Machine
